-- ==== Sys2Proof/Word.lean ====
section
/-! DEFINITION. The words of the DVH-440 (spec/00_scope.md, Conventions and Numbers used throughout)
and the container for its many groups of four like things. -/

namespace Sys2Proof

/-- A byte of a frame or of a port message, and every 8-bit field (tags, sequence numbers, exchange numbers). -/
abbrev Byte := BitVec 8

/-- A 16-bit field: passes, remaining, hit count (Table 8-5). -/
abbrev Half := BitVec 16

/-- A 24-bit word address, mask, location or program counter (00, Addresses and data). -/
abbrev Addr := BitVec 24

/-- A 32-bit data word (00, Addresses and data). -/
abbrev Word := BitVec 32

/-- The n of Ln, Sn, Tn, Pn and Cn: 0 to 3 (00, Instance names). -/
abbrev Index := Fin 4

/-- The name of a breakpoint record, 0 to 31 (R39). -/
abbrev Handle := Fin 32

/-- Four like things, one for each value of an `Index`. -/
structure Quad (α : Type) where
  q0 : α
  q1 : α
  q2 : α
  q3 : α
  deriving DecidableEq, Repr

namespace Quad

/-- The same thing four times. -/
def all {α : Type} (a : α) : Quad α := ⟨a, a, a, a⟩

/-- The thing of number `i`. -/
def get {α : Type} (q : Quad α) (i : Index) : α :=
  match i with
  | 0 => q.q0
  | 1 => q.q1
  | 2 => q.q2
  | 3 => q.q3

/-- The four with the thing of number `i` replaced. -/
def set {α : Type} (q : Quad α) (i : Index) (a : α) : Quad α :=
  match i with
  | 0 => { q with q0 := a }
  | 1 => { q with q1 := a }
  | 2 => { q with q2 := a }
  | 3 => { q with q3 := a }

/-- The four with `f` applied to the thing of number `i`. -/
def modify {α : Type} (q : Quad α) (i : Index) (f : α → α) : Quad α :=
  q.set i (f (q.get i))

/-- Every one of the four with `f` applied. -/
def map {α β : Type} (f : α → β) (q : Quad α) : Quad β := ⟨f q.q0, f q.q1, f q.q2, f q.q3⟩

end Quad

/-- The four numbers, in rising order. -/
def indices : List Index := [0, 1, 2, 3]

/-- The number a byte names, where it names one: 0 to 3 (Table 8-5, target and session fields). -/
def toIndex? (b : Byte) : Option Index :=
  if h : b.toNat < 4 then some ⟨b.toNat, h⟩ else none

/-- The handle a byte names, where it names one: 0 to 31 (Table 8-5). -/
def toHandle? (b : Byte) : Option Handle :=
  if h : b.toNat < 32 then some ⟨b.toNat, h⟩ else none

end Sys2Proof
end

