-- ==== Sys2Proof/Syntax.lean ====
section
/-! DEFINITION. The commands of the hub: one constructor of `Instr` for each row of spec/opcode_table.json.
Operands are the manual's own fields as they travel, so that a value the manual leaves undefined (a target above 3,
a role 7, a flags byte with reserved bits set) can be written and meets the check the manual gives it. -/

namespace Sys2Proof

/-- The strap pins of one link as a hub reset samples them (R146, R113): the two rate straps, first and second, and SUPCAP. -/
structure Straps where
  rate0 : Bool
  rate1 : Bool
  supcap : Bool
  deriving DecidableEq, Repr

/-- All strap pins of a link low. -/
def Straps.low : Straps := { rate0 := false, rate1 := false, supcap := false }

/-- The value and value mask of a breakpoint's data condition (Table 3-1). -/
structure DataCond where
  value : Word
  mask : Word
  deriving DecidableEq, Repr

/-- A request frame's kind with its target-or-handle byte and operands, as Table 8-6 lists them. `emptyOps` of HALT and RESUME
says whether the operand length was the admitted 0: for these two kinds check 5 of R158 is made by the Run Control Unit (R159). -/
inductive Request where
  | openSession (role lease : Byte)
  | close
  | ping
  | halt (target : Byte) (emptyOps : Bool)
  | resume (target : Byte) (emptyOps : Bool)
  | step (target count : Byte)
  | status (target : Byte)
  | lock (target : Byte)
  | unlock (target : Byte)
  | frel (target : Byte)
  | setbrk (target mode : Byte) (address mask : Addr) (passes : Half)
  | setbrkData (value mask : Word)
  | clrbrk (handle : Byte)
  | qbrk (handle part : Byte)
  | read (target space : Byte) (location : Addr)
  | write (target space : Byte) (location : Addr) (data : Word)
  | ack (seq : Byte)
  | replay
  | watch (mask : Byte)
  | configRead (target item : Byte)
  | configSet (target item value : Byte)
  | treset (target : Byte)
  deriving DecidableEq, Repr

/-- The commands: the steps of spec/opcode_table.json. A request command is the arrival of its frame on link `l`
(log entry 1). A command that begins with a target number is an event of that target's port or timers. -/
inductive Instr where
  /-- OPEN (R114). -/
  | openSession (l : Index) (tag role lease : Byte)
  /-- CLOSE (R119). -/
  | close (l : Index) (tag : Byte)
  /-- PING (R120). -/
  | ping (l : Index) (tag : Byte)
  /-- HALT (R10). -/
  | halt (l : Index) (tag target : Byte)
  /-- RESUME (R13). -/
  | resume (l : Index) (tag target : Byte)
  /-- STEP (R28). -/
  | step (l : Index) (tag target count : Byte)
  /-- STATUS (R24). -/
  | status (l : Index) (tag target : Byte)
  /-- LOCK (R99). -/
  | lock (l : Index) (tag target : Byte)
  /-- UNLOCK (R100). -/
  | unlock (l : Index) (tag target : Byte)
  /-- FREL (R105). -/
  | frel (l : Index) (tag target : Byte)
  /-- SETBRK, match form (R47). -/
  | setbrk (l : Index) (tag target mode : Byte) (address mask : Addr) (passes : Half)
  /-- SETBRK, data form (R151). -/
  | setbrkDataForm (l : Index) (tag : Byte) (value mask : Word)
  /-- CLRBRK (R63). -/
  | clrbrk (l : Index) (tag handle : Byte)
  /-- QBRK (R65). -/
  | qbrk (l : Index) (tag handle part : Byte)
  /-- READ (R71). -/
  | read (l : Index) (tag target space : Byte) (location : Addr)
  /-- WRITE (R71). -/
  | write (l : Index) (tag target space : Byte) (location : Addr) (data : Word)
  /-- ACK (R138). -/
  | ack (l : Index) (tag seq : Byte)
  /-- REPLAY (R140). -/
  | replay (l : Index) (tag : Byte)
  /-- WATCH (R142). -/
  | watch (l : Index) (tag mask : Byte)
  /-- CONFIG, read form (R185). -/
  | configRead (l : Index) (tag target item : Byte)
  /-- CONFIG, setting form (R186). -/
  | configSet (l : Index) (tag target item value : Byte)
  /-- TRESET (R188). -/
  | treset (l : Index) (tag target : Byte)
  /-- A byte arrives on the receive line (R154). -/
  | receivedByte (l : Index) (b : Byte)
  /-- The inter-byte gap timer expires (R155). -/
  | interByteGapExpiry (l : Index)
  /-- The idle timer of HUNT expires (R156). -/
  | huntIdleExpiry (l : Index)
  /-- A link break is detected (R147). -/
  | linkBreak (l : Index)
  /-- The last byte of the frame in transmission has been sent (R166). -/
  | frameSent (l : Index)
  /-- The lease timer of session Sl expires (R118). -/
  | leaseExpiry (l : Index)
  /-- Power-on or the reset pin (R26), with the strap levels sampled (R113, R146). -/
  | hubReset (straps : Quad Straps)
  /-- PRESENT rises (R172). -/
  | presentRise (t : Index)
  /-- PRESENT falls (R172). -/
  | presentFall (t : Index)
  /-- A HALTED message arrives: flags, pc, and the check byte received (R14, R170). -/
  | haltedReport (t : Index) (flags : Byte) (pc : Addr) (check : Byte)
  /-- A RUNNING message arrives (R16, R170). -/
  | runningReport (t : Index) (check : Byte)
  /-- An SVC_GRANT message arrives (R178). -/
  | svcGrant (t : Index) (check : Byte)
  /-- An ACC_REPLY message arrives (R179). -/
  | accReply (t : Index) (number result : Byte) (data : Word) (check : Byte)
  /-- A REF message arrives, with a data word or, in the short layout, none (R52, R170). -/
  | ref (t : Index) (kind : Byte) (address : Addr) (data : Option Word) (check : Byte)
  /-- The timer of an outstanding STOP, STEP or SVC_EXIT(hold) expires (R19). -/
  | stopTimerExpiry (t : Index)
  /-- The timer of an outstanding RUN, PROBE or RST_OFF expires (R19). -/
  | runTimerExpiry (t : Index)
  /-- The timer of an outstanding SVC_REQ expires (R89). -/
  | grantTimerExpiry (t : Index)
  /-- The timer of the outstanding ACC expires (R80). -/
  | exchangeTimerExpiry (t : Index)
  /-- The reset hold timer expires (R190). -/
  | resetHoldExpiry (t : Index)
  /-- A slot of the port begins (R171). -/
  | slotBegin (t : Index)
  deriving DecidableEq, Repr

end Sys2Proof
end

