-- ==== Sys2Proof/Config.lean ====
section
/-! DEFINITION. What the DVH-440 fixes: the capacities and ranges of spec/00_scope.md (Numbers used throughout)
and the defaults of Table 10-1. The model has no constant without a value: the two orders that the spec leaves open
stand in State as plain data (log entry 3). -/

namespace Sys2Proof.Config

/-- Breakpoint records of the Breakpoint Table (R39). -/
def maxRecords : Nat := 32
/-- Entries of an access queue (R69). -/
def maxAccesses : Nat := 8
/-- Accesses of one service episode (R86). -/
def maxBatch : Nat := 4
/-- Outstanding requests of one session (R121). -/
def maxOutstanding : Nat := 4
/-- Places of a response queue (R162). -/
def respPlaces : Nat := 8
/-- Free places an immediate response needs (R163). -/
def immediateNeeds : Nat := 5
/-- Entries of a notice queue below which a notice is appended (R130, line 4). -/
def noticeRoom : Nat := 15
/-- Consecutive discards that put a receiver in HUNT (R155, R156). -/
def badFrameLimit : Nat := 3
/-- Inter-byte gap limit, in character times (R154, R155). -/
def gapLimit : Nat := 4
/-- Idle gap that ends HUNT, in character times (R156). -/
def huntIdle : Nat := 10
/-- ATTN messages a send list holds at most (R171). -/
def maxAttn : Nat := 8
/-- The longest lease period, in seconds (R114). -/
def maxLease : Nat := 60
/-- The longest and shortest length byte of a frame (R148). -/
def minLength : Nat := 3
def maxLength : Nat := 14
/-- Highest core index of a target (00, Addresses and data). -/
def maxCoreIndex : Nat := 127

/-- Defaults of Table 10-1, in milliseconds. -/
def stopTimeout : Byte := 20
def runTimeout : Byte := 5
def grantTimeout : Byte := 5
def exchangeTimeout : Byte := 2
def resetHold : Byte := 10

end Sys2Proof.Config
end

