-- ==== Sys2Proof/Machine/Operands.lean ====
section
/-! DEFINITION. Bytes on the wires: the CRC-8 of R149, multi-byte fields, the layout of request frames (Tables 8-2, 8-3
and 8-6), and the layout and the check of target-to-hub messages (Table 9-2, R170). -/

namespace Sys2Proof

/-- One shift of the CRC-8 remainder: toward the most significant bit, with 0x07 combined in when the bit shifted out was 1 (R149). -/
def crcShift (r : Byte) : Byte :=
  if r.msb then (r <<< 1) ^^^ 0x07 else r <<< 1

/-- One covered byte: combined with the remainder, which is then shifted eight times (R149). -/
def crcByte (r b : Byte) : Byte :=
  crcShift (crcShift (crcShift (crcShift (crcShift (crcShift (crcShift (crcShift (r ^^^ b))))))))

/-- The check byte over the covered bytes, in frame order, from remainder 0 and with no final inversion (R149). -/
def crc8 (bs : List Byte) : Byte :=
  bs.foldl crcByte 0

/-- A 16-bit field, most significant byte first (00, Byte order). -/
def bytes16 (h : Half) : List Byte :=
  [h.extractLsb' 8 8, h.extractLsb' 0 8]

/-- A 24-bit field, most significant byte first. -/
def bytes24 (a : Addr) : List Byte :=
  [a.extractLsb' 16 8, a.extractLsb' 8 8, a.extractLsb' 0 8]

/-- A 32-bit field, most significant byte first. -/
def bytes32 (w : Word) : List Byte :=
  [w.extractLsb' 24 8, w.extractLsb' 16 8, w.extractLsb' 8 8, w.extractLsb' 0 8]

/-- The 16-bit field that two bytes carry. -/
def half (a b : Byte) : Half := a ++ b
/-- The 24-bit field that three bytes carry. -/
def addr (a b c : Byte) : Addr := a ++ b ++ c
/-- The 32-bit field that four bytes carry. -/
def word (a b c d : Byte) : Word := a ++ b ++ c ++ d

/-- The byte of a count or a small number. -/
def byteOf (n : Nat) : Byte := BitVec.ofNat 8 n

/-- A flag byte: 0 clear, 1 set (Table 8-5). -/
def flagByte (b : Bool) : Byte := if b then 1 else 0

/-- The start bytes of Table 8-2. -/
def requestStart : Byte := 0xA5
def responseStart : Byte := 0x5A
def noticeStart : Byte := 0x3C

/-- A frame: start byte, length byte, the n bytes, check byte (R148). -/
def frameBytes (start : Byte) (body : List Byte) : List Byte :=
  let covered := byteOf body.length :: body
  start :: covered ++ [crc8 covered]

namespace Request

/-- The kind code of a request (Table 8-3). -/
def kind : Request → Byte
  | openSession _ _ => 0x01
  | close => 0x02
  | ping => 0x03
  | halt _ _ => 0x10
  | resume _ _ => 0x11
  | step _ _ => 0x12
  | status _ => 0x13
  | lock _ => 0x14
  | unlock _ => 0x15
  | frel _ => 0x16
  | setbrk _ _ _ _ _ => 0x20
  | setbrkData _ _ => 0x20
  | clrbrk _ => 0x21
  | qbrk _ _ => 0x22
  | read _ _ _ => 0x30
  | write _ _ _ _ => 0x31
  | ack _ => 0x40
  | replay => 0x41
  | watch _ => 0x42
  | configRead _ _ => 0x50
  | configSet _ _ _ => 0x50
  | treset _ => 0x51

/-- The target-or-handle byte of a request; 0 where Table 8-6 gives it no meaning. -/
def toh : Request → Byte
  | openSession _ _ => 0
  | close => 0
  | ping => 0
  | halt t _ => t
  | resume t _ => t
  | step t _ => t
  | status t => t
  | lock t => t
  | unlock t => t
  | frel t => t
  | setbrk t _ _ _ _ => t
  | setbrkData _ _ => 0
  | clrbrk h => h
  | qbrk h _ => h
  | read t _ _ => t
  | write t _ _ _ => t
  | ack _ => 0
  | replay => 0
  | watch _ => 0
  | configRead t _ => t
  | configSet t _ _ => t
  | treset t => t

/-- The operand bytes of a request, in the order of Table 8-6. -/
def ops : Request → List Byte
  | openSession role lease => [role, lease]
  | close => []
  | ping => []
  | halt _ e => if e then [] else [0]
  | resume _ e => if e then [] else [0]
  | step _ count => [count]
  | status _ => []
  | lock _ => []
  | unlock _ => []
  | frel _ => []
  | setbrk _ mode a m p => 0 :: mode :: (bytes24 a ++ bytes24 m ++ bytes16 p)
  | setbrkData v m => 1 :: (bytes32 v ++ bytes32 m)
  | clrbrk _ => []
  | qbrk _ part => [part]
  | read _ space loc => space :: bytes24 loc
  | write _ space loc d => space :: (bytes24 loc ++ bytes32 d)
  | ack seq => [seq]
  | replay => []
  | watch mask => [mask]
  | configRead _ item => [item]
  | configSet _ item value => [item, value]
  | treset _ => []

/-- The whole frame of a request with its tag: Table 8-2 with the operands of Table 8-6. -/
def frame (tag : Byte) (q : Request) : List Byte :=
  frameBytes requestStart (tag :: q.kind :: q.toh :: q.ops)

/-- The target number of a request of a per-target kind (Table 8-9). A match-form SETBRK, a CONFIG and an access name one too. -/
def target? : Request → Option Byte
  | openSession _ _ => none
  | close => none
  | ping => none
  | halt t _ => some t
  | resume t _ => some t
  | step t _ => some t
  | status t => some t
  | lock t => some t
  | unlock t => some t
  | frel t => some t
  | setbrk t _ _ _ _ => some t
  | setbrkData _ _ => none
  | clrbrk _ => none
  | qbrk _ _ => none
  | read t _ _ => some t
  | write t _ _ _ => some t
  | ack _ => none
  | replay => none
  | watch _ => none
  | configRead t _ => some t
  | configSet t _ _ => some t
  | treset t => some t

/-- The request codes of Table 8-3 (check 1 of R158). -/
def kinds : List Byte :=
  [0x01, 0x02, 0x03, 0x10, 0x11, 0x12, 0x13, 0x14, 0x15, 0x16, 0x20, 0x21, 0x22, 0x30, 0x31, 0x40, 0x41, 0x42, 0x50, 0x51]

/-- The kinds that the window check treats as deferred whatever their owner makes of them: STEP, READ, WRITE and TRESET (R159). -/
def deferredKinds : List Byte := [0x12, 0x30, 0x31, 0x51]

/-- The request that a kind code, a target-or-handle byte and operands spell, where the operand length is admitted (Table 8-6);
none where it is not (check 5 of R158, R150). HALT and RESUME carry the outcome of that check to their owner (R159). -/
def parse (kind toh : Byte) (ops : List Byte) : Option Request :=
  if kind = 0x10 then some (halt toh ops.isEmpty)
  else if kind = 0x11 then some (resume toh ops.isEmpty)
  else match ops with
    | [] =>
      if kind = 0x02 then some close
      else if kind = 0x03 then some ping
      else if kind = 0x13 then some (status toh)
      else if kind = 0x14 then some (lock toh)
      else if kind = 0x15 then some (unlock toh)
      else if kind = 0x16 then some (frel toh)
      else if kind = 0x21 then some (clrbrk toh)
      else if kind = 0x41 then some replay
      else if kind = 0x51 then some (treset toh)
      else none
    | [a] =>
      if kind = 0x12 then some (step toh a)
      else if kind = 0x22 then some (qbrk toh a)
      else if kind = 0x40 then some (ack a)
      else if kind = 0x42 then some (watch a)
      else if kind = 0x50 then some (configRead toh a)
      else none
    | [a, b] =>
      if kind = 0x01 then some (openSession a b)
      else if kind = 0x50 then some (configSet toh a b)
      else none
    | [a, b, c, d] =>
      if kind = 0x30 then some (read toh a (addr b c d)) else none
    | [a, b, c, d, e, f, g, h] =>
      if kind = 0x31 then some (write toh a (addr b c d) (word e f g h)) else none
    | [form, a, b, c, d, e, f, g, h] =>
      if kind = 0x20 ∧ form = 1 then some (setbrkData (word a b c d) (word e f g h)) else none
    | [form, mode, a, b, c, d, e, f, g, h] =>
      if kind = 0x20 ∧ form = 0 then some (setbrk toh mode (addr a b c) (addr d e f) (half g h)) else none
    | _ => none

end Request

/-! ### Target-to-hub messages -/

/-- A target-to-hub message as its slot carries it: code, fields, check byte (Table 9-2). -/
structure InMsg where
  code : Byte
  fields : List Byte
  check : Byte
  deriving DecidableEq, Repr

/-- The message that a command of a target brings, for the five commands that bring one. -/
def Instr.inMsg? : Instr → Option InMsg
  | .haltedReport _ flags pc check => some ⟨0x81, flags :: bytes24 pc, check⟩
  | .runningReport _ check => some ⟨0x82, [], check⟩
  | .svcGrant _ check => some ⟨0x83, [], check⟩
  | .accReply _ number result data check => some ⟨0x84, number :: result :: bytes32 data, check⟩
  | .ref _ kind address data check =>
    some ⟨0x85, kind :: (bytes24 address ++ (data.map bytes32).getD []), check⟩
  | _ => none

/-- The defined values of a message's fields, and the length that its code and kind give it (R170, R180): a HALTED flags byte
has bits 2 to 7 zero, an ACC_REPLY result is 0 or 1, a REF kind is 0, 1 or 2 and has a data word exactly for LOAD and STORE. -/
def InMsg.fieldsDefined (m : InMsg) : Bool :=
  match m.fields with
  | [] => m.code == 0x82 || m.code == 0x83
  | f :: rest =>
    if m.code = 0x81 then f.toNat < 4 && rest.length == 3
    else if m.code = 0x84 then
      match rest with
      | result :: data => result.toNat < 2 && data.length == 4
      | [] => false
    else if m.code = 0x85 then
      if f = 0 then rest.length == 3 else f.toNat < 3 && rest.length == 7
    else false

/-- The check byte that the message's code and fields require (R170). -/
def InMsg.expected (m : InMsg) : Byte := crc8 (m.code :: m.fields)

/-- R170's verification: a target-to-hub code, defined fields, and a check byte that agrees. -/
def InMsg.wellFormed (m : InMsg) : Bool :=
  m.fieldsDefined && m.check == m.expected

end Sys2Proof
end

