-- ==== Sys2Proof/Machine/State.lean ====
section
/-! DEFINITION. The state of the hub, as plain data: everything the spec gives it (INVENTORY.md lists each piece with its rule),
the queue of waiting commands and the model's own schedule. Three things are stored once and read through a function
(log entry 17): a session's outstanding count, a bank's bound count and watch demand, and the supervisor's place. -/

namespace Sys2Proof.Machine

/-! ### Names of the manual -/

/-- A session's role (R96). -/
inductive Role where
  | observer | controller | supervisor
  deriving DecidableEq, Repr

/-- The result code of a response (Table 8-4). -/
inductive Status where
  | ok | busy | unknownKind | badOperand | noSession | dupTag | already | role | supervisorTaken | locked | notOwner
  | notHeld | heldByOther | notHalted | tableFull | noComparator | noSuchBreak | queueFull | timeout | unresponsive
  | detached | targetReset | targetError | aborted | interrupted
  deriving DecidableEq, Repr

/-- The run state of a target (Table 1-2). -/
inductive RunState where
  | detached | running | stopping | halted | releasing | stepping | svcPending | service | unresponsive | resetting
  deriving DecidableEq, Repr

/-- Why a target last entered HALTED (R3). -/
inductive HaltCause where
  | requested (n : Index) | brk (h : Handle) | stepEnd | self | resetHeld
  deriving DecidableEq, Repr

/-- Why a stop has begun (R4). -/
inductive StopCause where
  | requested (n : Index) | brk (h : Handle) | self
  deriving DecidableEq, Repr

/-- What a breakpoint record asks for (Table 3-1). -/
inductive BrkKind where
  | fetch | load | store | data | any
  deriving DecidableEq, Repr

/-- What a reference report reports (R53). -/
inductive RefKind where
  | fetch | load | store
  deriving DecidableEq, Repr

/-- A breakpoint record's action (Table 3-1). -/
inductive Action where
  | halt | notify | interrupt
  deriving DecidableEq, Repr

/-- A breakpoint record's persistence (Table 3-1). -/
inductive Persistence where
  | oneShot | persistent
  deriving DecidableEq, Repr

/-- The space of an access (Table 4-1). -/
inductive Space where
  | core | memory
  deriving DecidableEq, Repr

/-- What an access does, with a WRITE's data word (Table 4-1). -/
inductive AccOp where
  | read | write (data : Word)
  deriving DecidableEq, Repr

/-- The phase of an access exchange (R70). -/
inductive Phase where
  | read | write | readBack
  deriving DecidableEq, Repr

/-- The link state of a port (R172). -/
inductive LinkState where
  | disabled | absent | probing | active
  deriving DecidableEq, Repr

/-- The rate of a client link (Table 8-1). -/
inductive LinkRate where
  | b9600 | b57600 | b115200 | b460800
  deriving DecidableEq, Repr

/-- The cause of a session end (R123). -/
inductive EndCause where
  | close | lease | linkBreak
  deriving DecidableEq, Repr

/-- A timer: stopped, or running with the value it was started with (log entry 5). -/
abbrev Timer := Option Nat

/-! ### Port messages -/

/-- The hub-to-target messages (Table 9-2). -/
inductive PortMsg where
  | stop | run | step | svcReq | svcCancel
  | svcExit (hold : Bool)
  | acc (number : Byte) (op : AccOp) (space : Space) (location : Addr)
  | attn (h : Handle)
  | watch (on : Bool)
  | probe | rstOn
  | rstOff (hold : Bool)
  deriving DecidableEq, Repr

/-- The run-control messages, one of which may be outstanding on a port (R174). -/
inductive RcMsg where
  | stop | run | step | svcReq | svcExitHold | probe
  | rstOff (hold : Bool)
  deriving DecidableEq, Repr

/-- The outstanding run-control message with the value its timer was started with (Table 9-1). -/
structure Outstanding where
  msg : RcMsg
  timer : Nat
  deriving DecidableEq, Repr

/-! ### Link Units -/

/-- The receiver of a link (section 8.3): in RECEIVING, the bytes gathered after the start byte. -/
inductive RxState where
  | idle
  | receiving (got : List Byte)
  | hunt
  deriving DecidableEq, Repr

/-- What a response frame carries (R152). -/
structure Response where
  tag : Byte
  status : Status
  kind : Byte
  payload : List Byte
  deriving DecidableEq, Repr

/-- The session a queued response belongs to (R161, R162): the one open on the link, none, or one that has ended (log entry 18). -/
inductive RespOwner where
  | session | none | ended
  deriving DecidableEq, Repr

/-- An entry of a response queue (R162). -/
structure RespEntry where
  owner : RespOwner
  resp : Response
  deriving DecidableEq, Repr

/-- The transmitter of a link (R166): free, or the bytes of the frame in transmission. -/
inductive Tx where
  | free
  | response (frame : List Byte)
  | notice (frame : List Byte)
  deriving DecidableEq, Repr

/-- A request that a Link Unit has routed and whose owner has not yet taken it (R124, R160). -/
structure Routed where
  tag : Byte
  request : Request
  cond : Option DataCond
  inSession : Bool
  deriving DecidableEq, Repr

/-- The Link Unit of one link (chapter 8). -/
structure LinkUnit where
  rate : LinkRate
  rx : RxState
  badFrames : Nat
  gapTimer : Timer
  idleTimer : Timer
  pendingData : Option DataCond
  respQ : List RespEntry
  tx : Tx
  routed : Option Routed
  deriving DecidableEq, Repr

/-! ### Sessions and notices -/

/-- The fields that an open session record has (Table 6-1). -/
structure OpenSession where
  role : Role
  lease : Byte
  leaseTimer : Timer
  tags : List Byte
  watch : Quad Bool
  deriving DecidableEq, Repr

/-- A session record (Table 6-1): CLOSED is the absence of `current`. -/
structure Session where
  capable : Bool
  current : Option OpenSession
  deriving DecidableEq, Repr

/-- A hold set (R1). -/
structure HoldSet where
  members : Quad Bool
  self : Bool
  deriving DecidableEq, Repr

/-- The kind and payload of a notice (R131 to R135). -/
inductive NoticeBody where
  | brk (h : Handle) (target : Index) (kind : RefKind) (address : Addr) (data : Option Word) (hits : Half)
      (suppressed removed : Bool)
  | state (target : Index) (run : RunState) (hold : HoldSet) (lock : Option Index) (halt : Option (Option HaltCause × Addr))
  | revokedClaims (target : Index) (hold lock : Bool)
  | revokedBreak (h : Handle) (target : Index)
  | linkFault (count : Nat)
  | overrun
  deriving DecidableEq, Repr

/-- An entry of a notice queue (R128). `keepsCount`: a REPLAY found this LINK_FAULT entry unsent behind an older one that it made unsent,
so its count stays until it leaves (R140). -/
structure NoticeEntry where
  seq : Byte
  body : NoticeBody
  sent : Bool
  keepsCount : Bool
  deriving DecidableEq, Repr

/-- The Notice Queue of one session (R128, R129). -/
structure NoticeQueue where
  entries : List NoticeEntry
  nextSeq : Byte
  deriving DecidableEq, Repr

/-! ### Breakpoints -/

/-- A breakpoint record (Table 3-1). -/
structure Record where
  handle : Handle
  owner : Index
  target : Index
  kind : BrkKind
  address : Addr
  mask : Addr
  cond : Option DataCond
  passes : Half
  remaining : Half
  action : Action
  persistence : Persistence
  hits : Half
  comparator : Index
  deriving DecidableEq, Repr

/-- A match specification (Table 3-2). -/
structure MatchSpec where
  kind : BrkKind
  address : Addr
  mask : Addr
  cond : Option DataCond
  deriving DecidableEq, Repr

/-- A comparator: its specification while it is bound, and its subscriber list (R42). -/
structure Comparator where
  spec : Option MatchSpec
  subs : List Handle
  deriving DecidableEq, Repr

/-! ### Run control -/

/-- The kinds of waiter (R5). -/
inductive WaitKind where
  | halt | resume
  deriving DecidableEq, Repr

/-- An entry of a waiter list (R5). -/
structure Waiter where
  session : Index
  tag : Byte
  kind : WaitKind
  deriving DecidableEq, Repr

/-- The step sequence record (Table 2-1). -/
structure StepSeq where
  session : Index
  tag : Byte
  requested : Nat
  done : Nat
  outstanding : Bool
  interrupted : Bool
  brk : Option Handle
  aborted : Bool
  discard : Bool
  deriving DecidableEq, Repr

/-- The phase of a target reset (R187). -/
inductive ResetPhase where
  | holding
  | released (holdFlag : Bool)
  deriving DecidableEq, Repr

/-- The reset record (R187). -/
structure ResetRec where
  session : Index
  tag : Byte
  discard : Bool
  phase : ResetPhase
  deriving DecidableEq, Repr

/-- The Run Control Unit of one target (Table 1-1, R187). -/
structure RunControl where
  run : RunState
  hold : HoldSet
  lock : Option Index
  haltCause : Option HaltCause
  stopCause : Option StopCause
  lastPc : Addr
  waiters : List Waiter
  relDefer : Bool
  stepSeq : Option StepSeq
  resetRec : Option ResetRec
  resetTimer : Timer
  deriving DecidableEq, Repr

/-! ### Accesses, port, configuration -/

/-- An access entry (Table 4-1); `inFlight` clear is WAITING. -/
structure AccEntry where
  session : Index
  tag : Byte
  op : AccOp
  space : Space
  location : Addr
  inFlight : Bool
  written : Bool
  discard : Bool
  deriving DecidableEq, Repr

/-- The exchange record (Table 4-2, R179): number, phase and timer value of the outstanding ACC. -/
structure Exchange where
  number : Byte
  phase : Phase
  timer : Nat
  deriving DecidableEq, Repr

/-- The access queue and Access Engine of one target (Tables 4-1 and 4-2). -/
structure AccessEngine where
  queue : List AccEntry
  batch : Nat
  exchange : Option Exchange
  deriving DecidableEq, Repr

/-- The Target Port Controller of one port (Table 9-1, R46, R169). -/
structure Port where
  present : Bool
  link : LinkState
  outstanding : Option Outstanding
  sendList : List PortMsg
  slot : List Byte
  nextEx : Byte
  watchEnable : Bool
  resetAsserted : Bool
  watchOwed : Bool
  deriving DecidableEq, Repr

/-- The configuration of one target (Table 10-1). -/
structure PortConfig where
  stop : Byte
  run : Byte
  grant : Byte
  exchange : Byte
  resetHold : Byte
  intrusive : Bool
  portEnable : Bool
  deriving DecidableEq, Repr

/-- Everything the hub keeps for one target. -/
structure Target where
  rc : RunControl
  bank : Quad Comparator
  acc : AccessEngine
  port : Port
  cfg : PortConfig
  deriving DecidableEq, Repr

/-! ### The hub -/

/-- A block that takes the announcement of a session end (Table 6-4). -/
inductive EndBlock where
  | runControl (t : Index)
  | breakTable
  | access (t : Index)
  | notices
  | linkUnit
  deriving DecidableEq, Repr

/-- The model's own schedule (log entry 3): for each coming session end, the order in which the blocks take it (R123: not fixed);
for each coming routed request, whether its owner takes it later than at once (R124). -/
structure Schedule where
  endOrders : List (List EndBlock)
  delays : List Bool
  deriving DecidableEq, Repr

/-- The state of the hub. -/
structure State where
  links : Quad LinkUnit
  sessions : Quad Session
  notices : Quad NoticeQueue
  records : List Record
  targets : Quad Target
  sched : Schedule
  pending : List Instr
  deriving DecidableEq, Repr

/-- The reasons the hub can stop: none. The manual gives every event an effect, so no command faults. -/
inductive Fault where
  deriving DecidableEq, Repr

/-- The reasons a command has no meaning. -/
inductive Refusal where
  /-- Raised by no arm of `exec`: every command has its meaning. Safe. -/
  | notModelled (mnemonic : String)
  deriving DecidableEq, Repr

/-! ### Reset values -/

/-- The rate that the two rate straps select (Table 8-1). -/
def LinkRate.ofStraps (s : Straps) : LinkRate :=
  match s.rate0, s.rate1 with
  | false, false => .b9600
  | true, false => .b57600
  | false, true => .b115200
  | true, true => .b460800

/-- A Link Unit after a hub reset (R168). -/
def LinkUnit.reset (s : Straps) : LinkUnit :=
  { rate := .ofStraps s, rx := .idle, badFrames := 0, gapTimer := none, idleTimer := none, pendingData := none,
    respQ := [], tx := .free, routed := none }

/-- A session record after a hub reset (R127, last column of Table 6-1). -/
def Session.reset (s : Straps) : Session := { capable := s.supcap, current := none }

/-- A Notice Queue after a hub reset (R145). -/
def NoticeQueue.reset : NoticeQueue := { entries := [], nextSeq := 0 }

/-- The empty hold set. -/
def HoldSet.empty : HoldSet := { members := .all false, self := false }

/-- A Run Control Unit after a hub reset (R26, Table 1-1). -/
def RunControl.reset : RunControl :=
  { run := .detached, hold := .empty, lock := none, haltCause := none, stopCause := none, lastPc := 0, waiters := [],
    relDefer := false, stepSeq := none, resetRec := none, resetTimer := none }

/-- A free comparator (R42). -/
def Comparator.free : Comparator := { spec := none, subs := [] }

/-- An Access Engine after a hub reset (R95). -/
def AccessEngine.reset : AccessEngine := { queue := [], batch := 0, exchange := none }

/-- A Target Port Controller after a hub reset, before any attach begins (R183). -/
def Port.reset (present : Bool) : Port :=
  { present, link := .absent, outstanding := none, sendList := [], slot := [], nextEx := 0, watchEnable := false,
    resetAsserted := false, watchOwed := false }

/-- The defaults of Table 10-1 (R184). -/
def PortConfig.reset : PortConfig :=
  { stop := Config.stopTimeout, run := Config.runTimeout, grant := Config.grantTimeout, exchange := Config.exchangeTimeout,
    resetHold := Config.resetHold, intrusive := false, portEnable := true }

/-- What the hub keeps for a target after a hub reset, before any attach begins. -/
def Target.reset (present : Bool) : Target :=
  { rc := .reset, bank := .all .free, acc := .reset, port := .reset present, cfg := .reset }

/-- The hub right after a hub reset with every strap pin and every PRESENT line low (log entry 7): every link state is then
ABSENT and no attach begins (R183). -/
def State.reset : State :=
  { links := .all (.reset .low), sessions := .all (.reset .low), notices := .all .reset, records := [],
    targets := .all (.reset false), sched := { endOrders := [], delays := [] }, pending := [] }

end Sys2Proof.Machine
end

