-- ==== Sys2Proof/Machine/Flags.lean ====
section
/-! DEFINITION. Sets and flags: the hold set's operations, the bytes that sets, flags and codes travel as (Tables 8-4, 8-5), and the
flag-like bytes that requests carry (role, mode byte, watch mask). -/

namespace Sys2Proof.Machine

/-! ### Hold sets (R1) -/

namespace HoldSet

/-- Session `n` is a member. -/
def has (h : HoldSet) (n : Index) : Bool := h.members.get n

/-- Session `n` joins. -/
def add (h : HoldSet) (n : Index) : HoldSet := { h with members := h.members.set n true }

/-- Session `n` leaves. -/
def remove (h : HoldSet) (n : Index) : HoldSet := { h with members := h.members.set n false }

/-- SELF joins. -/
def addSelf (h : HoldSet) : HoldSet := { h with self := true }

/-- SELF leaves. -/
def removeSelf (h : HoldSet) : HoldSet := { h with self := false }

/-- Nobody holds. -/
def isEmpty (h : HoldSet) : Bool := indices.all (fun n => !h.has n) && !h.self

/-- The hold set is exactly {Sn}. -/
def isOnly (h : HoldSet) (n : Index) : Bool := h == HoldSet.empty.add n

/-- A session other than `n` is a member (check 6 of R28: SELF does not count). -/
def hasOther (h : HoldSet) (n : Index) : Bool := indices.any (fun m => m != n && h.has m)

/-- The stop cause of a stop that finds none recorded: REQUESTED of the lowest-numbered session member, else SELF (R4). -/
def stopCause (h : HoldSet) : StopCause :=
  match indices.find? h.has with
  | some n => .requested n
  | none => .self

end HoldSet

/-! ### Bytes of sets and codes (Tables 8-4 and 8-5) -/

/-- Bit n set for member n. -/
def quadByte (q : Quad Bool) : Byte :=
  (if q.q0 then 1 else 0) ||| (if q.q1 then 2 else 0) ||| (if q.q2 then 4 else 0) ||| (if q.q3 then 8 else 0)

/-- The hold set's byte: bits 0 to 3 the sessions, bit 4 SELF. -/
def HoldSet.byte (h : HoldSet) : Byte := quadByte h.members ||| (if h.self then 0x10 else 0)

/-- A session or link number. -/
def indexByte (n : Index) : Byte := byteOf n.val

/-- A session number or 0xFF for none. -/
def ownerByte (o : Option Index) : Byte :=
  match o with
  | some n => indexByte n
  | none => 0xFF

/-- A handle. -/
def handleByte (h : Handle) : Byte := byteOf h.val

/-- Table 8-4. -/
def Status.code : Status → Byte
  | ok => 0x00
  | busy => 0x01
  | unknownKind => 0x02
  | badOperand => 0x03
  | noSession => 0x04
  | dupTag => 0x05
  | already => 0x06
  | role => 0x07
  | supervisorTaken => 0x08
  | locked => 0x09
  | notOwner => 0x0A
  | notHeld => 0x0B
  | heldByOther => 0x0C
  | notHalted => 0x0D
  | tableFull => 0x0E
  | noComparator => 0x0F
  | noSuchBreak => 0x10
  | queueFull => 0x11
  | timeout => 0x12
  | unresponsive => 0x13
  | detached => 0x14
  | targetReset => 0x15
  | targetError => 0x16
  | aborted => 0x17
  | interrupted => 0x18

/-- Table 8-5, run state. -/
def RunState.code : RunState → Byte
  | detached => 0
  | running => 1
  | stopping => 2
  | halted => 3
  | releasing => 4
  | stepping => 5
  | svcPending => 6
  | service => 7
  | unresponsive => 8
  | resetting => 9

/-- Table 8-5, halt cause: two bytes. -/
def haltCauseBytes : Option HaltCause → List Byte
  | none => [0, 0]
  | some (.requested n) => [1, indexByte n]
  | some (.brk h) => [2, handleByte h]
  | some .stepEnd => [3, 0]
  | some .self => [4, 0]
  | some .resetHeld => [5, 0]

/-- Table 8-5, role. -/
def Role.code : Role → Byte
  | observer => 0
  | controller => 1
  | supervisor => 2

/-- The role that a byte names (check 2 of R114). -/
def Role.ofByte? (b : Byte) : Option Role :=
  if b = 0 then some .observer
  else if b = 1 then some .controller
  else if b = 2 then some .supervisor
  else none

/-- Table 8-5, breakpoint kind. -/
def BrkKind.code : BrkKind → Byte
  | fetch => 0
  | load => 1
  | store => 2
  | data => 3
  | any => 4

/-- Table 8-5, action. -/
def Action.code : Action → Byte
  | halt => 0
  | notify => 1
  | interrupt => 2

/-- Table 8-5, persistence. -/
def Persistence.code : Persistence → Byte
  | oneShot => 0
  | persistent => 1

/-- Reference kind: bits 2 to 3 of a BREAK notice's first byte (Table 8-8), and the kind byte of a REF message (Table 9-2). -/
def RefKind.code : RefKind → Byte
  | fetch => 0
  | load => 1
  | store => 2

/-- The reference kind that a REF message's kind byte names. -/
def RefKind.ofByte? (b : Byte) : Option RefKind :=
  if b = 0 then some .fetch
  else if b = 1 then some .load
  else if b = 2 then some .store
  else none

/-- Table 8-5, space. -/
def Space.code : Space → Byte
  | core => 0
  | memory => 1

/-- The space that a byte names (check 1 of R71). -/
def Space.ofByte? (b : Byte) : Option Space :=
  if b = 0 then some .core
  else if b = 1 then some .memory
  else none

/-! ### The SETBRK mode byte (Table 8-6) -/

/-- Bits 0 to 2: kind. -/
def modeKind? (mode : Byte) : Option BrkKind :=
  let k := mode &&& 0x07
  if k = 0 then some .fetch
  else if k = 1 then some .load
  else if k = 2 then some .store
  else if k = 3 then some .data
  else if k = 4 then some .any
  else none

/-- Bits 3 to 4: action. -/
def modeAction? (mode : Byte) : Option Action :=
  let a := (mode >>> 3) &&& 0x03
  if a = 0 then some .halt
  else if a = 1 then some .notify
  else if a = 2 then some .interrupt
  else none

/-- Bit 5: persistence. -/
def modePersistence (mode : Byte) : Persistence :=
  if mode.getLsbD 5 then .persistent else .oneShot

/-- Bit 6: data flag. -/
def modeDataFlag (mode : Byte) : Bool := mode.getLsbD 6

/-- Bit 7: must be zero (R150). -/
def modeReserved (mode : Byte) : Bool := mode.getLsbD 7

/-! ### The WATCH target mask (R142) -/

/-- Bits 0 to 3: the targets named. -/
def maskTargets (mask : Byte) : Quad Bool :=
  ⟨mask.getLsbD 0, mask.getLsbD 1, mask.getLsbD 2, mask.getLsbD 3⟩

/-- A bit beyond T3 is set. -/
def maskReserved (mask : Byte) : Bool := 16 ≤ mask.toNat

/-! ### Flags of a HALTED message (Table 9-2) -/

/-- Bit 0: self. -/
def selfFlag (flags : Byte) : Bool := flags.getLsbD 0
/-- Bit 1: step. -/
def stepFlag (flags : Byte) : Bool := flags.getLsbD 1

end Sys2Proof.Machine
end

