-- ==== Sys2Proof/Machine/Ops.lean ====
section
/-! DEFINITION. The named operations that every command shares: reading and updating one part of the state, notices and their queues,
responses and their queues, the transmit arbiter, the send list and the run-control message of a port. -/

namespace Sys2Proof.Machine

namespace State

/-! ### Reading and updating one part -/

def link (s : State) (l : Index) : LinkUnit := s.links.get l
def session (s : State) (n : Index) : Session := s.sessions.get n
def notice (s : State) (n : Index) : NoticeQueue := s.notices.get n
def target (s : State) (t : Index) : Target := s.targets.get t
def rc (s : State) (t : Index) : RunControl := (s.target t).rc
def bank (s : State) (t : Index) : Quad Comparator := (s.target t).bank
def acc (s : State) (t : Index) : AccessEngine := (s.target t).acc
def port (s : State) (t : Index) : Port := (s.target t).port
def cfg (s : State) (t : Index) : PortConfig := (s.target t).cfg

def modLink (l : Index) (f : LinkUnit → LinkUnit) (s : State) : State := { s with links := s.links.modify l f }
def modSession (n : Index) (f : Session → Session) (s : State) : State := { s with sessions := s.sessions.modify n f }
def modNotice (n : Index) (f : NoticeQueue → NoticeQueue) (s : State) : State := { s with notices := s.notices.modify n f }
def modTarget (t : Index) (f : Target → Target) (s : State) : State := { s with targets := s.targets.modify t f }
def modRc (t : Index) (f : RunControl → RunControl) (s : State) : State := s.modTarget t fun x => { x with rc := f x.rc }
def modBank (t : Index) (f : Quad Comparator → Quad Comparator) (s : State) : State :=
  s.modTarget t fun x => { x with bank := f x.bank }
def modAcc (t : Index) (f : AccessEngine → AccessEngine) (s : State) : State := s.modTarget t fun x => { x with acc := f x.acc }
def modPort (t : Index) (f : Port → Port) (s : State) : State := s.modTarget t fun x => { x with port := f x.port }
def modCfg (t : Index) (f : PortConfig → PortConfig) (s : State) : State := s.modTarget t fun x => { x with cfg := f x.cfg }

/-- Change the fields of an open session record; a CLOSED record has none. -/
def modOpen (n : Index) (f : OpenSession → OpenSession) (s : State) : State :=
  s.modSession n fun x => { x with current := x.current.map f }

/-! ### Sessions (R112, R121) -/

/-- The record of Sn is OPEN. -/
def isOpen (s : State) (n : Index) : Bool := (s.session n).current.isSome

/-- The role of Sn, which a CLOSED record does not have (R96). -/
def role? (s : State) (n : Index) : Option Role := (s.session n).current.map (·.role)

/-- Sn is open as OBSERVER. -/
def isObserver (s : State) (n : Index) : Bool := s.role? n == some .observer

/-- Sn is open as SUPERVISOR. -/
def isSupervisor (s : State) (n : Index) : Bool := s.role? n == some .supervisor

/-- The session open with role SUPERVISOR, if there is one: the supervisor's place (R97). -/
def supervisor (s : State) : Option Index := indices.find? s.isSupervisor

/-- The outstanding tags of Sn; empty while CLOSED (R112). -/
def tags (s : State) (n : Index) : List Byte :=
  match (s.session n).current with
  | some o => o.tags
  | none => []

/-- The outstanding count of Sn: the number of members of its tag set (R121). -/
def outstanding (s : State) (n : Index) : Nat := (s.tags n).length

/-- Sn watches target `t` (R141). -/
def watches (s : State) (n t : Index) : Bool :=
  match (s.session n).current with
  | some o => o.watch.get t
  | none => false

/-- An accepted request joins the outstanding requests of its session (R121). -/
def joinWindow (n : Index) (tag : Byte) (s : State) : State :=
  s.modOpen n fun o => { o with tags := o.tags ++ [tag] }

/-- A deferred response takes its tag out of the tag set (R121). -/
def leaveWindow (n : Index) (tag : Byte) (s : State) : State :=
  s.modOpen n fun o => { o with tags := o.tags.erase tag }

/-- The free places of the response queue of Ll (R162). -/
def freePlaces (s : State) (l : Index) : Nat := Config.respPlaces - (s.link l).respQ.length

/-- The window admits a request of Ln that would be deferred (R159). -/
def windowOpen (s : State) (n : Index) : Bool :=
  s.outstanding n < Config.maxOutstanding && s.outstanding n < s.freePlaces n

end State

/-! ### Frames the hub sends (Tables 8-2, 8-7 and 8-8) -/

/-- The bytes of a response frame (R152). -/
def Response.frame (r : Response) : List Byte :=
  frameBytes responseStart (r.tag :: r.status.code :: r.kind :: r.payload)

/-- Table 8-3, notice kinds. -/
def NoticeBody.code : NoticeBody → Byte
  | brk .. => 0x81
  | state .. => 0x82
  | revokedClaims .. => 0x83
  | revokedBreak .. => 0x83
  | linkFault _ => 0x84
  | overrun => 0x85

/-- The target-or-handle byte of a notice (Table 8-8). -/
def NoticeBody.toh : NoticeBody → Byte
  | brk h .. => handleByte h
  | state t .. => indexByte t
  | revokedClaims t _ _ => indexByte t
  | revokedBreak h _ => handleByte h
  | linkFault _ => 0
  | overrun => 0

/-- The first payload byte of a BREAK notice (Table 8-8). -/
def breakByte (target : Index) (kind : RefKind) (suppressed removed : Bool) : Byte :=
  indexByte target ||| (kind.code <<< 2) ||| (if suppressed then 0x40 else 0) ||| (if removed then 0x80 else 0)

/-- The payload of a notice (Table 8-8). -/
def NoticeBody.payload : NoticeBody → List Byte
  | brk _ t k a d hits sup rem => breakByte t k sup rem :: (bytes24 a ++ bytes16 hits ++ (d.map bytes32).getD [])
  | state _ run hold lock halt =>
    [run.code, hold.byte, ownerByte lock] ++ (halt.map fun (c, pc) => haltCauseBytes c ++ bytes24 pc).getD []
  | revokedClaims t hold lock => [(if hold then 1 else 0) ||| (if lock then 2 else 0), indexByte t]
  | revokedBreak _ t => [4, indexByte t]
  | linkFault count => [byteOf count]
  | overrun => []

/-- The bytes of a notice frame (R153). -/
def NoticeEntry.frame (e : NoticeEntry) : List Byte :=
  frameBytes noticeStart (e.seq :: e.body.code :: e.body.toh :: e.body.payload)

/-! ### Notice queues (R128 to R136) -/

/-- A LINK_FAULT body. -/
def NoticeBody.isFault : NoticeBody → Bool
  | linkFault _ => true
  | _ => false

/-- A LINK_FAULT entry whose count may still rise, once it is unsent (R134, R140). -/
def NoticeEntry.mayCount (e : NoticeEntry) : Bool := e.body.isFault && !e.keepsCount

/-- A LINK_FAULT entry not yet sent, which takes further faults (R134), unless it keeps its count until it leaves (R140). -/
def NoticeEntry.takesFaults (e : NoticeEntry) : Bool := e.mayCount && !e.sent

/-- One more fault in a LINK_FAULT entry, up to 255 (R134). -/
def NoticeEntry.addFault (e : NoticeEntry) : NoticeEntry :=
  match e.body with
  | .linkFault c => { e with body := .linkFault (if c < 255 then c + 1 else 255) }
  | _ => e

/-- Coalesce a fault into the oldest entry that takes faults (R134, R140). -/
def coalesceFault : List NoticeEntry → List NoticeEntry
  | [] => []
  | e :: es => if e.takesFaults then e.addFault :: es else e :: coalesceFault es

namespace NoticeQueue

/-- An OVERRUN entry is present. -/
def hasOverrun (q : NoticeQueue) : Bool := q.entries.any (fun e => e.body == .overrun)

/-- Append an entry with the next sequence number and the sent flag clear (R129, R130). -/
def append (q : NoticeQueue) (b : NoticeBody) : NoticeQueue :=
  { entries := q.entries ++ [{ seq := q.nextSeq, body := b, sent := false, keepsCount := false }], nextSeq := q.nextSeq + 1 }

/-- Lines 2 to 5 of R130. Where the only unsent LINK_FAULT entries keep their count (R140), a fault begins a new entry (log entry 29). -/
def take (q : NoticeQueue) (b : NoticeBody) : NoticeQueue :=
  if q.hasOverrun then q
  else if b.isFault && q.entries.any (·.takesFaults) then { q with entries := coalesceFault q.entries }
  else if q.entries.length < Config.noticeRoom then q.append b
  else q.append .overrun

/-- The oldest entry not yet sent, which the queue offers to the arbiter (R136). -/
def offer? (q : NoticeQueue) : Option NoticeEntry := q.entries.find? (fun e => !e.sent)

/-- Set the sent flag of the entry offered (R136). -/
def markSent : List NoticeEntry → List NoticeEntry
  | [] => []
  | e :: es => if e.sent then e :: markSent es else { e with sent := true } :: es

/-- A REPLAY's work on the entries, oldest first (R140): every sent flag is cleared, and a LINK_FAULT entry that was unsent keeps its count
from then on where an older one is made unsent that may count. `older`: such an older entry has been met. -/
def unsend : Bool → List NoticeEntry → List NoticeEntry
  | _, [] => []
  | older, e :: es =>
    { e with sent := false, keepsCount := e.keepsCount || (older && e.takesFaults) } :: unsend (older || (e.mayCount && e.sent)) es

/-- The part of the queue after the entry with sequence number `seq`, when one is present (R138). -/
def afterSeq? (seq : Byte) : List NoticeEntry → Option (List NoticeEntry)
  | [] => none
  | e :: es => if e.seq = seq then some es else afterSeq? seq es

end NoticeQueue

namespace State

/-- The transmit arbiter chooses when the transmitter is free: the oldest response, else the entry offered, whose sent flag is
then set (R166, R136). -/
def arbitrate (l : Index) (s : State) : State :=
  match (s.link l).tx with
  | .free =>
    match (s.link l).respQ with
    | e :: _ => s.modLink l fun u => { u with tx := .response e.resp.frame }
    | [] =>
      match (s.notice l).offer? with
      | some e =>
        (s.modNotice l fun q => { q with entries := NoticeQueue.markSent q.entries }).modLink l
          fun u => { u with tx := .notice e.frame }
      | none => s
  | .response _ => s
  | .notice _ => s

/-- Hand a notice to the queue of Sn, which takes it by R130 and offers it to the arbiter. -/
def queueNotice (n : Index) (b : NoticeBody) (s : State) : State :=
  if s.isOpen n then (s.modNotice n (·.take b)).arbitrate n else s

/-- A LINK_FAULT notice to the session of the link, when one is open (R134). -/
def linkFault (l : Index) (s : State) : State := s.queueNotice l (.linkFault 1)

/-- The STATE notice of target `t` as it stands (R132). -/
def stateBody (s : State) (t : Index) : NoticeBody :=
  let r := s.rc t
  .state t r.run r.hold r.lock (if r.run = .halted then some (r.haltCause, r.lastPc) else none)

/-- A STATE notice to every session that watches the target (R8). -/
def notifyState (t : Index) (s : State) : State :=
  indices.foldl (fun s' n => if s'.watches n t then s'.queueNotice n (s'.stateBody t) else s') s

/-! ### Responses (R161 to R164) -/

/-- Place a response in the queue of Ll. -/
def place (l : Index) (o : RespOwner) (r : Response) (s : State) : State :=
  (s.modLink l fun u => { u with respQ := u.respQ ++ [{ owner := o, resp := r }] }).arbitrate l

/-- An immediate response: placed when at least 5 places are free, otherwise discarded as a link fault (R163). -/
def respondNow (l : Index) (r : Response) (s : State) : State :=
  if Config.immediateNeeds ≤ s.freePlaces l then s.place l (if s.isOpen l then .session else .none) r else s.linkFault l

/-- A deferred response: it leaves the window and is placed (R121, R161); after its session has ended it is discarded (R124). -/
def respondDeferred (n : Index) (r : Response) (s : State) : State :=
  if s.isOpen n then (s.leaveWindow n r.tag).place n .session r else s

/-- An immediate response with no payload. -/
def respondPlain (l : Index) (tag kind : Byte) (st : Status) (s : State) : State :=
  s.respondNow l { tag, status := st, kind, payload := [] }

/-! ### Sending on a port (R171, R174) -/

/-- A message joins the end of the send list; an ATTN does not when 8 are already there (R171). -/
def hand (t : Index) (m : PortMsg) (s : State) : State :=
  s.modPort t fun p =>
    match m with
    | .attn _ =>
      if (p.sendList.countP fun x => match x with | .attn _ => true | _ => false) < Config.maxAttn then
        { p with sendList := p.sendList ++ [m] }
      else p
    | _ => { p with sendList := p.sendList ++ [m] }

end State

/-- The port message of a run-control message (Table 9-2). -/
def RcMsg.msg : RcMsg → PortMsg
  | stop => .stop
  | run => .run
  | step => .step
  | svcReq => .svcReq
  | svcExitHold => .svcExit true
  | probe => .probe
  | rstOff h => .rstOff h

/-- The configured timeout that guards a run-control message (Table 9-5). -/
def RcMsg.timeout (c : PortConfig) : RcMsg → Byte
  | stop => c.stop
  | step => c.stop
  | svcExitHold => c.stop
  | run => c.run
  | probe => c.run
  | rstOff _ => c.run
  | svcReq => c.grant

/-- A HALTED report answers the message (Table 9-5). -/
def RcMsg.answeredByHalted : RcMsg → Bool
  | svcReq => false
  | _ => true

/-- A RUNNING report answers the message (Table 9-5). -/
def RcMsg.answeredByRunning : RcMsg → Bool
  | run => true
  | probe => true
  | rstOff _ => true
  | _ => false

namespace State

/-- Hand a run-control message: it becomes outstanding and its timer starts with the value configured now (R174). -/
def handRc (t : Index) (m : RcMsg) (s : State) : State :=
  (s.modPort t fun p => { p with outstanding := some { msg := m, timer := (m.timeout (s.cfg t)).toNat } }).hand t m.msg

/-- The outstanding run-control message stops being outstanding and its timer is cancelled (R174). -/
def clearOutstanding (t : Index) (s : State) : State := s.modPort t fun p => { p with outstanding := none }

/-- The run-control message outstanding on the port. -/
def outstandingMsg (s : State) (t : Index) : Option RcMsg := (s.port t).outstanding.map (·.msg)

/-- SVC_CANCEL ends the outstanding SVC_REQ and its grant timer (R12, R174). -/
def cancelService (t : Index) (s : State) : State := (s.clearOutstanding t).hand t .svcCancel

/-! ### Watch demand (R43, R45, R46) -/

/-- The number of comparators that are bound (R43). -/
def boundCount (s : State) (t : Index) : Nat := (indices.filter fun c => !((s.bank t).get c).subs.isEmpty).length

/-- The watch demand of the bank (R43). -/
def demand (s : State) (t : Index) : Bool := 0 < s.boundCount t

/-- Send the WATCH that the demand requires, and set the watch enable to the value carried (R45, R180). -/
def sendWatch (t : Index) (s : State) : State :=
  (s.hand t (.watch (s.demand t))).modPort t fun p => { p with watchEnable := s.demand t }

/-- A changed watch demand is sent, except in DETACHED and RESETTING, where the bank keeps it (R45, R46). -/
def watchChanged (t : Index) (s : State) : State :=
  match (s.rc t).run with
  | .detached => s
  | .resetting => s
  | _ => s.sendWatch t

/-- Send WATCH where the demand now differs from what it was in `before` (R45). -/
def watchSince (s before : State) (t : Index) : State :=
  if s.demand t = before.demand t then s else s.watchChanged t

end State

end Sys2Proof.Machine
end

