-- ==== Sys2Proof/Machine/RunOps.lean ====
section
/-! DEFINITION. The actions of a Run Control Unit that requests, fires and reports share (chapters 1 and 2): answering waiters,
stop, release, entering HALTED, RUNNING and UNRESPONSIVE, a claim added to the hold set, and the step sequence. -/

namespace Sys2Proof.Machine

/-- The lock is owned by a session other than `n` (R101). -/
def RunControl.lockedAgainst (r : RunControl) (n : Index) : Bool :=
  match r.lock with
  | some o => o != n
  | none => false

/-- A head entry is IN_FLIGHT (R69, R70): an access exchange is in flight on the port. -/
def AccessEngine.inFlight (a : AccessEngine) : Bool :=
  match a.queue with
  | e :: _ => e.inFlight
  | [] => false

/-- The kind code of a waiter's request (Table 8-3). -/
def WaitKind.code : WaitKind → Byte
  | halt => 0x10
  | resume => 0x11

namespace State

/-! ### Waiters (R5) -/

/-- The still-held flag and the hold set of a RESUME's OK response, as they stand (R13). -/
def resumePayload (s : State) (t : Index) : List Byte :=
  [flagByte (!(s.rc t).hold.isEmpty), (s.rc t).hold.byte]

/-- Answer one waiter: a RESUME answered OK carries the still-held flag and the hold set, every other answer nothing (Table 8-7). -/
def answerWaiter (t : Index) (st : Status) (s : State) (w : Waiter) : State :=
  s.respondDeferred w.session
    { tag := w.tag, status := st, kind := w.kind.code,
      payload := if w.kind = .resume ∧ st = .ok then s.resumePayload t else [] }

/-- Answer the waiters that `p` picks, in list order; the others stay (R5). -/
def answerWaiters (t : Index) (p : Waiter → Bool) (st : Status) (s : State) : State :=
  ((s.rc t).waiters.filter p).foldl (answerWaiter t st)
    (s.modRc t fun r => { r with waiters := r.waiters.filter fun w => !p w })

/-- Every waiter. -/
def answerAll (t : Index) (st : Status) (s : State) : State := s.answerWaiters t (fun _ => true) st

/-- Every RESUME waiter, OK. -/
def answerResumes (t : Index) (s : State) : State := s.answerWaiters t (fun w => w.kind == .resume) .ok

/-- Every HALT waiter, OK. -/
def answerHalts (t : Index) (s : State) : State := s.answerWaiters t (fun w => w.kind == .halt) .ok

/-- Every HALT waiter of the sessions that `p` picks, ABORTED (R13, R105). -/
def abortHalts (t : Index) (p : Index → Bool) (s : State) : State :=
  s.answerWaiters t (fun w => w.kind == .halt && p w.session) .aborted

/-- A deferred HALT or RESUME joins the outstanding requests and the end of the waiter list (R9, R13, R121). -/
def addWaiter (t n : Index) (tag : Byte) (k : WaitKind) (s : State) : State :=
  (s.joinWindow n tag).modRc t fun r => { r with waiters := r.waiters ++ [{ session := n, tag, kind := k }] }

/-! ### Run states, stop and release (R4, R6, R7, R8) -/

/-- A change of run state and its STATE notices (R8). -/
def setRun (t : Index) (x : RunState) (s : State) : State :=
  (s.modRc t fun r => { r with run := x }).notifyState t

/-- Record the stop cause where none stands (R4). -/
def setStopCause (t : Index) (c : StopCause) (s : State) : State :=
  s.modRc t fun r => { r with stopCause := some (r.stopCause.getD c) }

/-- Stop the target (R6): STOP, the stop cause where absent, STOPPING. -/
def stop (t : Index) (s : State) : State :=
  (((s.handRc t .stop).setStopCause t (s.rc t).hold.stopCause).modRc t fun r => { r with relDefer := false }).setRun t .stopping

/-- Release the target (R7): RUN and RELEASING, or the release deferral while an access is in flight. -/
def release (t : Index) (s : State) : State :=
  if (s.acc t).inFlight then s.modRc t fun r => { r with relDefer := true }
  else ((s.handRc t .run).modRc t fun r => { r with relDefer := false }).setRun t .releasing

/-- After a change of the hold set in HALTED: a release when it is empty, and the STATE notice of R8's third kind when the run
state stays HALTED (R8, R13, R25, R107). -/
def afterHoldChange (t : Index) (s : State) : State :=
  if (s.rc t).hold.isEmpty then
    if (s.acc t).inFlight then (s.release t).notifyState t else s.release t
  else s.notifyState t

/-- Enter HALTED with a halt cause (R3, R5, R14, R15): the HALT waiters are answered, and the RESUME waiters too when the release
they wait for is not made; the STATE notice follows, and a release when nobody holds the target. -/
def enterHalted (t : Index) (c : HaltCause) (s : State) : State :=
  let s1 := s.modRc t fun r => { r with run := .halted, haltCause := some c, stopCause := none }
  if (s.rc t).hold.isEmpty then ((s1.answerHalts t).notifyState t).release t
  else (s1.answerAll t .ok).notifyState t

/-- Enter RUNNING (R4, R5, R8): the RESUME waiters are answered OK. -/
def enterRunning (t : Index) (s : State) : State :=
  ((s.modRc t fun r => { r with run := .running, stopCause := none, relDefer := false }).answerResumes t).notifyState t

/-- End a service episode with SVC_EXIT(hold): a run-control message under the stop timer, and STOPPING (R12, R88). -/
def exitHold (t : Index) (s : State) : State := (s.handRc t .svcExitHold).setRun t .stopping

/-! ### The step sequence (chapter 2) -/

/-- Change the step sequence record, when there is one. -/
def modSeq (t : Index) (f : StepSeq → StepSeq) (s : State) : State :=
  s.modRc t fun r => { r with stepSeq := r.stepSeq.map f }

/-- Set the interrupted field, and the break handle where it is absent and a breakpoint asks (R33). -/
def interruptSeq (t : Index) (h : Option Handle) (s : State) : State :=
  s.modSeq t fun q => { q with interrupted := true, brk := q.brk.or h }

/-- The response to a STEP (Table 8-7): count done and last pc. -/
def respondStep (t : Index) (q : StepSeq) (st : Status) (s : State) : State :=
  if q.discard then s
  else s.respondDeferred q.session
    { tag := q.tag, status := st, kind := 0x12, payload := byteOf q.done :: bytes24 (s.rc t).lastPc }

/-- The status of a sequence that ends at a report or at the end of an access: the first line of R35's table that applies. -/
def seqStatus (r : RunControl) (q : StepSeq) : Status :=
  if q.aborted || !r.hold.has q.session then .aborted
  else if q.interrupted || q.brk.isSome || !r.hold.isOnly q.session || r.lockedAgainst q.session then .interrupted
  else .ok

/-- The end of a sequence in HALTED (R35, R36). `selfAdded`: the ending report added SELF by R32. -/
def endSeq (t : Index) (selfAdded : Bool) (s : State) : State :=
  match (s.rc t).stepSeq with
  | none => s
  | some q =>
    let cause := match q.brk with
      | some h => HaltCause.brk h
      | none => if selfAdded then .self else .stepEnd
    ((s.respondStep t q (seqStatus (s.rc t) q)).modRc t fun r => { r with stepSeq := none }).enterHalted t cause

/-- A sequence that ends early (R37). -/
def failSeq (t : Index) (st : Status) (s : State) : State :=
  match (s.rc t).stepSeq with
  | none => s
  | some q => (s.respondStep t q st).modRc t fun r => { r with stepSeq := none }

/-- Hand the STEP of a sequence (R29, R31). -/
def sendStep (t : Index) (s : State) : State :=
  (s.handRc t .step).modSeq t fun q => { q with outstanding := true }

/-! ### Claims (R10, R11, R12) -/

/-- A session joins the hold set, by its HALT or by a fire of its record, and the unit acts by the run state it found:
Table 1-3, R11, R12 and R33. -/
def claim (t n : Index) (c : StopCause) (s : State) : State :=
  let s1 := s.modRc t fun r => { r with hold := r.hold.add n }
  match (s.rc t).run with
  | .running => (s1.setStopCause t c).stop t
  | .stopping => s1.setStopCause t c
  | .releasing => s1.setStopCause t c
  | .svcPending => ((s1.setStopCause t c).cancelService t).stop t
  | .service => if (s.acc t).inFlight then s1.setStopCause t c else (s1.setStopCause t c).exitHold t
  | .stepping => s1.interruptSeq t (match c with | .brk h => some h | .requested _ => none | .self => none)
  | .halted => if (s.rc t).hold.has n then s1 else s1.notifyState t
  | .resetting => s1
  | .detached => s1
  | .unresponsive => s1

/-! ### Target resets (R187 to R191) -/

/-- The response to a TRESET, dropped when the discard mark is set, and the end of the reset record (R191). -/
def endReset (t : Index) (st : Status) (payload : List Byte) (s : State) : State :=
  match (s.rc t).resetRec with
  | none => s
  | some q =>
    (if q.discard then s else s.respondDeferred q.session { tag := q.tag, status := st, kind := 0x51, payload }).modRc t
      fun r => { r with resetRec := none, resetTimer := none }

/-! ### UNRESPONSIVE (R19) -/

/-- Enter UNRESPONSIVE: a TRESET awaiting its report, the waiters and the step sequence are answered (log entry 13). -/
def enterUnresponsive (t : Index) (s : State) : State :=
  ((((s.endReset t .unresponsive []).answerAll t .unresponsive).failSeq t .timeout).modRc t
    fun r => { r with relDefer := false }).setRun t .unresponsive

/-- The end of an access is reported to the Run Control Unit: a deferred release is completed (R7) or a held-back STEP sent (R30),
before the next head is examined (R79). -/
def accessReport (t : Index) (s : State) : State :=
  let r := s.rc t
  if r.relDefer then
    let s1 := s.modRc t fun x => { x with relDefer := false }
    if r.hold.isEmpty then s1.release t else s1.answerResumes t
  else
    match r.run, r.stepSeq with
    | .stepping, some q =>
      if q.outstanding then s
      else if !q.interrupted && !q.aborted && r.hold.isOnly q.session then s.sendStep t
      else s.endSeq t false
    | _, _ => s

end State

end Sys2Proof.Machine
end

