-- ==== Sys2Proof/Machine/AccessOps.lean ====
section
/-! DEFINITION. The Access Engine's shared operations (chapter 4): the examination of the head entry, the exchanges, the end of an
access and its response. -/

namespace Sys2Proof.Machine

/-- What an examination decides for the head of the queue (Table 4-3, R86). -/
inductive Verdict where
  | wait
  | fail (st : Status)
  | start
  | beginService
  | exitHold
  | exitResume
  deriving DecidableEq, Repr

/-- The entry is a WRITE. -/
def AccEntry.isWrite (e : AccEntry) : Bool :=
  match e.op with
  | .write _ => true
  | .read => false

/-- The head's treatment in HALTED (Table 4-3). -/
def verdictHalted (r : RunControl) (e : AccEntry) : Verdict :=
  if e.isWrite && r.lockedAgainst e.session then .fail .locked
  else if e.isWrite && !r.hold.has e.session then .fail .notHeld
  else .start

/-- The head's treatment in RUNNING (Table 4-3). -/
def verdictRunning (r : RunControl) (intrusive : Bool) (e : AccEntry) : Verdict :=
  if e.isWrite && r.lockedAgainst e.session then .fail .locked
  else if !intrusive then .fail .notHalted
  else .beginService

/-- The examination in SERVICE (R86). -/
def verdictService (r : RunControl) (a : AccessEngine) : Verdict :=
  if !r.hold.isEmpty then .exitHold
  else if a.batch = Config.maxBatch then .exitResume
  else
    match a.queue with
    | [] => .exitResume
    | e :: _ => if e.isWrite && r.lockedAgainst e.session then .exitResume else .start

/-- An examination (R72, R73, R86): only when no entry is IN_FLIGHT, and of an empty queue only in SERVICE. -/
def verdict (r : RunControl) (a : AccessEngine) (intrusive : Bool) : Verdict :=
  if a.inFlight then .wait
  else
    match r.run with
    | .service => verdictService r a
    | .halted => match a.queue with | e :: _ => verdictHalted r e | [] => .wait
    | .running => match a.queue with | e :: _ => verdictRunning r intrusive e | [] => .wait
    | .detached => match a.queue with | _ :: _ => .fail .detached | [] => .wait
    | .unresponsive => match a.queue with | _ :: _ => .fail .unresponsive | [] => .wait
    | .stopping => .wait
    | .releasing => .wait
    | .stepping => .wait
    | .svcPending => .wait
    | .resetting => .wait

namespace State

/-- The response to an access, unless its discard field is set (R74, R75, R79). A WRITE not answered OK carries its written flag. -/
def respondAccess (e : AccEntry) (st : Status) (payload : List Byte) (s : State) : State :=
  if e.discard then s
  else s.respondDeferred e.session
    { tag := e.tag, status := st, kind := if e.isWrite then 0x31 else 0x30,
      payload := if st ≠ .ok ∧ e.isWrite then [flagByte e.written] else payload }

/-- The head entry leaves the queue and is answered (R74, R79). -/
def failHead (t : Index) (st : Status) (s : State) : State :=
  match (s.acc t).queue with
  | [] => s
  | e :: rest => (s.modAcc t fun a => { a with queue := rest }).respondAccess e st []

/-- Hand an ACC for the head entry: it takes the next exchange number and its exchange timer starts (R70, R179). -/
def handAcc (t : Index) (op : AccOp) (ph : Phase) (e : AccEntry) (s : State) : State :=
  let n := (s.port t).nextEx
  ((s.modPort t fun p => { p with nextEx := n + 1 }).modAcc t
    fun a => { a with exchange := some { number := n, phase := ph, timer := (s.cfg t).exchange.toNat } }).hand t
      (.acc n op e.space e.location)

/-- Put `e` in place of the head of the queue. -/
def setHead (t : Index) (e : AccEntry) (s : State) : State :=
  s.modAcc t fun a => { a with queue := e :: a.queue.tail }

/-- The head becomes IN_FLIGHT and its first exchange begins (R76, R77). -/
def startHead (t : Index) (s : State) : State :=
  match (s.acc t).queue with
  | [] => s
  | e :: _ =>
    (s.setHead t { e with inFlight := true }).handAcc t e.op (match e.op with | .read => .read | .write _ => .write) e

/-- Begin an intrusive episode: SVC_REQ and SVC_PENDING (R83). -/
def beginService (t : Index) (s : State) : State := (s.handRc t .svcReq).setRun t .svcPending

/-- End an episode with SVC_EXIT(resume), which is not run-control (R87). -/
def exitResume (t : Index) (s : State) : State := (s.hand t (.svcExit false)).enterRunning t

/-- Examine the head, and again after each departure (R72, R73, R74, R86, R87). Each round takes an entry from the queue, or ends a
SERVICE episode, or is the last. -/
def examineFor : Nat → Index → State → State
  | 0, _, s => s
  | n + 1, t, s =>
    match verdict (s.rc t) (s.acc t) (s.cfg t).intrusive with
    | .wait => s
    | .fail st => examineFor n t (s.failHead t st)
    | .start => s.startHead t
    | .beginService => s.beginService t
    | .exitHold => s.exitHold t
    | .exitResume => examineFor n t (s.exitResume t)

/-- An examination of the queue of target `t`: as many rounds as it can take. -/
def examine (t : Index) (s : State) : State := s.examineFor ((s.acc t).queue.length + 2) t

/-- An examination when the run state is not the one the event found (R72). -/
def examineSince (s before : State) (t : Index) : State :=
  if (s.rc t).run = (before.rc t).run then s else s.examine t

/-- The end of the IN_FLIGHT access: the exchange record becomes none, the entry leaves, the response is produced, and in SERVICE the
batch count rises (R79). -/
def endAccess (t : Index) (st : Status) (payload : List Byte) (s : State) : State :=
  match (s.acc t).queue with
  | [] => s
  | e :: rest =>
    (s.modAcc t fun a =>
      { queue := rest, exchange := none,
        batch := if (s.rc t).run = .service then a.batch + 1 else a.batch }).respondAccess e st payload

/-- An access that its reply ends: the end is reported to the Run Control Unit before the next head is examined (R79). -/
def endByReply (t : Index) (st : Status) (payload : List Byte) (s : State) : State :=
  ((s.endAccess t st payload).accessReport t).examine t

/-- The IN_FLIGHT access fails with a target reset (R93). The batch count stays as it is, also in SERVICE: R79 and R86 differ on it, and
the model chooses (log entry 30). -/
def failInFlight (t : Index) (st : Status) (s : State) : State :=
  if (s.acc t).inFlight then (s.modAcc t fun a => { a with exchange := none }).failHead t st else s

/-- Every entry fails in queue order, and the queue is empty (R94). The batch count stays as it is (log entry 30). -/
def failAllAccesses (t : Index) (st : Status) (s : State) : State :=
  (s.acc t).queue.foldl (fun s' e => s'.respondAccess e st [])
    (s.modAcc t fun a => { a with queue := [], exchange := none })

/-- The run states in which a timeout on an ACC makes the target UNRESPONSIVE, and in which a READ_BACK is made: HALTED, SERVICE, and
STEPPING with its first STEP held back (R77, R80). -/
def stillHalted (s : State) (t : Index) : Bool :=
  match (s.rc t).run with
  | .halted => true
  | .service => true
  | .stepping => match (s.rc t).stepSeq with | some q => !q.outstanding | none => false
  | _ => false

end State

end Sys2Proof.Machine
end

