-- ==== Sys2Proof/Machine/BreakOps.lean ====
section
/-! DEFINITION. The Breakpoint Table's and Comparator Banks' shared operations (chapter 3): handles, binding, deletion, matching of
reference reports and fires. -/

namespace Sys2Proof.Machine

/-- The record's match specification (Table 3-2). -/
def Record.spec (r : Record) : MatchSpec := { kind := r.kind, address := r.address, mask := r.mask, cond := r.cond }

/-- A reference report that R170 has let through. -/
structure RefReport where
  kind : RefKind
  address : Addr
  data : Option Word
  deriving DecidableEq, Repr

/-- The kinds agree (R53). -/
def BrkKind.covers : BrkKind → RefKind → Bool
  | fetch, .fetch => true
  | load, .load => true
  | store, .store => true
  | data, .load => true
  | data, .store => true
  | any, _ => true
  | _, _ => false

/-- A specification matches a report: kind, address and data tests (R53). -/
def MatchSpec.matchesRef (m : MatchSpec) (r : RefReport) : Bool :=
  m.kind.covers r.kind && (r.address &&& m.mask == m.address) &&
    match m.cond, r.data with
    | none, _ => true
    | some c, some d => d &&& c.mask == c.value
    | some _, none => false

/-- A bound comparator matches a report. -/
def Comparator.matchesRef (c : Comparator) (r : RefReport) : Bool :=
  !c.subs.isEmpty && match c.spec with | some m => m.matchesRef r | none => false

/-- A deleted handle leaves the subscriber list; a comparator whose list empties becomes free (R44). -/
def Comparator.drop (gone : Handle → Bool) (c : Comparator) : Comparator :=
  let subs := c.subs.filter fun h => !gone h
  if subs.isEmpty then .free else { c with subs }

/-- The comparators that a record may be bound to while they are free, in the order they are tried (R50). -/
def eligible (cond : Option DataCond) : List Index :=
  match cond with
  | some _ => [2, 3]
  | none => [0, 1, 2, 3]

/-- The comparator a new record is bound to, and whether it is shared: one with an identical specification, else the first eligible
free one (R49, R50). -/
def bindTo? (bank : Quad Comparator) (m : MatchSpec) : Option (Index × Bool) :=
  match indices.find? (fun c => !(bank.get c).subs.isEmpty && (bank.get c).spec == some m) with
  | some c => some (c, true)
  | none =>
    match (eligible m.cond).find? (fun c => (bank.get c).subs.isEmpty) with
    | some c => some (c, false)
    | none => none

/-- A record takes its place in the table, which is kept in handle order. -/
def insertRecord (r : Record) : List Record → List Record
  | [] => [r]
  | x :: xs => if r.handle < x.handle then r :: x :: xs else x :: insertRecord r xs

/-- Replace the record of a handle. -/
def updateRecord (h : Handle) (f : Record → Record) : List Record → List Record
  | [] => []
  | x :: xs => if x.handle = h then f x :: xs else x :: updateRecord h f xs

/-- The handles 0 to 31. -/
def handles : List Handle := List.finRange 32

namespace State

/-- The live record of a handle (R39). -/
def record? (s : State) (h : Handle) : Option Record := s.records.find? (fun r => r.handle == h)

/-- The lowest handle not in use by a live record (R39). -/
def freeHandle? (s : State) : Option Handle := handles.find? (fun h => (s.record? h).isNone)

def modRecord (h : Handle) (f : Record → Record) (s : State) : State := { s with records := updateRecord h f s.records }

/-- Delete the records that `gone` picks from the table and from every bank, in one event and with no WATCH yet (R44). -/
def dropRecords (gone : Record → Bool) (s : State) : State :=
  let dead (h : Handle) : Bool := s.records.any fun r => r.handle == h && gone r
  { s with
    records := s.records.filter fun r => !gone r
    targets := s.targets.map fun x => { x with bank := x.bank.map (Comparator.drop dead) } }

/-- Delete one record (R44). -/
def dropRecord (h : Handle) (s : State) : State := s.dropRecords fun r => r.handle == h

/-- The place of a record in its subscriber list, counted from 1 (R41). -/
def position (s : State) (r : Record) : Nat := (((s.bank r.target).get r.comparator).subs.idxOf r.handle) + 1

/-- The handles that a report is processed for: the subscribers of the matching comparators, in index order and then list order, as
they stand when the report arrives (R54). -/
def matching (s : State) (t : Index) (r : RefReport) : List Handle :=
  (indices.map fun c => if ((s.bank t).get c).matchesRef r then ((s.bank t).get c).subs else []).flatten

/-- A REF report is matched, not discarded (Table 3-3). -/
def takesRefs (s : State) (t : Index) : Bool :=
  match (s.rc t).run with
  | .running => true
  | .stopping => true
  | .releasing => true
  | .svcPending => true
  | .stepping => match (s.rc t).stepSeq with | some q => q.outstanding | none => false
  | _ => false

/-- The action is suppressed: HALT or INTERRUPT under another session's lock (R58). -/
def suppressed (s : State) (x : Record) : Bool :=
  match x.action with
  | .notify => false
  | .halt => (s.rc x.target).lockedAgainst x.owner
  | .interrupt => (s.rc x.target).lockedAgainst x.owner

/-- Apply the action of a fire, unless it is suppressed or its owner's session has ended (R56, R59, R60, R124). -/
def applyAction (x : Record) (s : State) : State :=
  if s.suppressed x || !s.isOpen x.owner then s
  else
    match x.action with
    | .halt => s.claim x.target x.owner (.brk x.handle)
    | .interrupt => s.hand x.target (.attn x.handle)
    | .notify => s

/-- The hit count after one more fire (R40). -/
def nextHits (h : Half) : Half := if h = 0xFFFF then h else h + 1

/-- The persistence of a fire: the reload of a PERSISTENT record, the deletion of a ONE_SHOT one (R61, R62). -/
def applyPersistence (x : Record) (s : State) : State :=
  match x.persistence with
  | .persistent => s.modRecord x.handle fun y => { y with remaining := y.passes }
  | .oneShot => s.dropRecord x.handle

/-- A fire (R56): hit count, BREAK notice, action, persistence. -/
def fire (r : RefReport) (x : Record) (s : State) : State :=
  let hits := nextHits x.hits
  let s1 := s.modRecord x.handle fun y => { y with hits := hits }
  let s2 := s1.queueNotice x.owner
    (.brk x.handle x.target r.kind r.address r.data hits (s.suppressed x) (x.persistence == .oneShot))
  (s2.applyAction x).applyPersistence x

/-- The bank takes one record in a matching report (R55). -/
def takeRecord (r : RefReport) (s : State) (h : Handle) : State :=
  match s.record? h with
  | none => s
  | some x =>
    if x.remaining = 0 then s.fire r x
    else s.modRecord h fun y => { y with remaining := y.remaining - 1 }

/-- A whole report (R52, R54, R61): every record taken, then the WATCH that an emptied bank requires. -/
def takeRef (t : Index) (r : RefReport) (s : State) : State :=
  if s.takesRefs t then ((s.matching t r).foldl (takeRecord r) s).watchSince s t else s

end State

end Sys2Proof.Machine
end

