-- ==== Sys2Proof/Machine/SessionOps.lean ====
section
/-! DEFINITION. The end of a session and its announcement to the blocks (R123, Table 6-4), and what each block does with it. -/

namespace Sys2Proof.Machine

/-- Every block that takes the announcement (Table 6-4); the four Run Control Units and Access Engines apart. -/
def allEndBlocks : List EndBlock :=
  [.runControl 0, .runControl 1, .runControl 2, .runControl 3, .breakTable,
   .access 0, .access 1, .access 2, .access 3, .notices, .linkUnit]

/-- An order in which every block takes the announcement once: the given one, then the blocks it leaves out. -/
def completeOrder (o : List EndBlock) : List EndBlock := (o ++ allEndBlocks).eraseDups

/-- The entry belongs to the session open on the link. -/
def RespEntry.ofSession (e : RespEntry) : Bool := e.owner == .session

/-- An entry of the session that ends belongs to an ended session from then on (log entry 18). -/
def RespEntry.endOwner (e : RespEntry) : RespEntry := if e.ofSession then { e with owner := .ended } else e

/-- The responses that a session end leaves in the queue: at LEASE those of the session are dropped, but for the entry whose frame is in
transmission, which keeps its place (R126, R162, log entry 12). -/
def LinkUnit.keptAtEnd (u : LinkUnit) (c : EndCause) : List RespEntry :=
  match c with
  | .close => u.respQ
  | .linkBreak => u.respQ
  | .lease =>
    match u.tx, u.respQ with
    | .response _, e :: es => e :: es.filter fun x => !x.ofSession
    | _, es => es.filter fun x => !x.ofSession

namespace State

/-- A Run Control Unit takes the end of Sn: hold set, waiter list, step sequence and reset record first, then the lock
(R25, R34, R110, R191). -/
def endInRunControl (n t : Index) (s : State) : State :=
  let was := (s.rc t).hold.has n
  let s1 := s.modRc t fun r =>
    { r with
      hold := r.hold.remove n
      waiters := r.waiters.filter fun w => w.session != n
      stepSeq := r.stepSeq.map fun q => if q.session = n then { q with aborted := true, discard := true } else q
      resetRec := r.resetRec.map fun q => if q.session = n then { q with discard := true } else q }
  let s2 := if was && (s.rc t).run == .halted then s1.afterHoldChange t else s1
  if (s2.rc t).lock = some n then (s2.modRc t fun r => { r with lock := none }).notifyState t else s2

/-- The Breakpoint Table takes the end of Sn: its records are deleted, and each bank's watch demand is evaluated once (R66, R44). -/
def endInBreakTable (n : Index) (s : State) : State :=
  indices.foldl (fun s' t => s'.watchSince s t) (s.dropRecords fun r => r.owner == n)

/-- An Access Engine takes the end of Sn: its WAITING entries are removed, its IN_FLIGHT entry is marked for discard, and a new head so
reached is examined (R92). -/
def endInAccess (n t : Index) (s : State) : State :=
  let a := s.acc t
  let left := (a.queue.filter fun e => e.session != n || e.inFlight).map
    fun e => if e.session = n then { e with discard := true } else e
  let s1 := s.modAcc t fun x => { x with queue := left }
  match a.queue, left with
  | e :: _, _ :: _ => if e.session = n && !e.inFlight then s1.examine t else s1
  | _, _ => s1

/-- The Notice Queue of Sn is emptied (R144). -/
def endInNotices (n : Index) (s : State) : State := s.modNotice n fun q => { q with entries := [] }

/-- The Link Unit of Ln takes the end of Sn by its cause (R126, R165). -/
def endInLinkUnit (n : Index) (c : EndCause) (s : State) : State :=
  s.modLink n fun u => { u with pendingData := none, respQ := (u.keptAtEnd c).map RespEntry.endOwner }

/-- One block takes the announcement. -/
def takeEnd (n : Index) (c : EndCause) (s : State) (b : EndBlock) : State :=
  match b with
  | .runControl t => s.endInRunControl n t
  | .breakTable => s.endInBreakTable n
  | .access t => s.endInAccess n t
  | .notices => s.endInNotices n
  | .linkUnit => s.endInLinkUnit n c

/-- The end of session Sn (R123): the record closes, then every block takes the announcement, in the order the schedule gives. A record
that is already CLOSED does not end again. -/
def endSession (n : Index) (c : EndCause) (s : State) : State :=
  if s.isOpen n then
    let closed := s.modSession n fun x => { x with current := none }
    match s.sched.endOrders with
    | [] => allEndBlocks.foldl (takeEnd n c) closed
    | o :: os => (completeOrder o).foldl (takeEnd n c) { closed with sched := { s.sched with endOrders := os } }
  else s

end State

end Sys2Proof.Machine
end

