-- ==== Sys2Proof/Machine/BreakRequests.lean ====
section
/-! DEFINITION. How the Breakpoint Table takes SETBRK in its match form, CLRBRK and QBRK (chapter 3), and the access queue of the named
target READ and WRITE (chapter 4). -/

namespace Sys2Proof.Machine

/-- The fields of a SETBRK's mode byte, when all are defined and go with its data condition (check 1 of R47). -/
def setbrkFields? (mode : Byte) (cond : Option DataCond) : Option (BrkKind × Action) :=
  match modeKind? mode, modeAction? mode with
  | some k, some a =>
    if modeReserved mode || (cond.isSome && (k == .fetch || k == .any)) then none else some (k, a)
  | _, _ => none

/-- The match specification of a SETBRK: address and value reduced by their masks (R48). -/
def setbrkSpec (kind : BrkKind) (address mask : Addr) (cond : Option DataCond) : MatchSpec :=
  { kind, address := address &&& mask, mask,
    cond := cond.map fun c => { value := c.value &&& c.mask, mask := c.mask } }

namespace State

/-- The checks of R47 after the target number, in their order: the status of the first that fails, or the handle and the binding. -/
def setbrkVerdict (s : State) (n t : Index) (mode : Byte) (address mask : Addr) (cond : Option DataCond) :
    Status ⊕ (BrkKind × Action × Handle × Index × Bool) :=
  match setbrkFields? mode cond with
  | none => .inl .badOperand
  | some (k, a) =>
    if s.isObserver n && a != .notify then .inl .role
    else
      match s.freeHandle? with
      | none => .inl .tableFull
      | some h =>
        match bindTo? (s.bank t) (setbrkSpec k address mask cond) with
        | none => .inl .noComparator
        | some (c, shared) => .inr (k, a, h, c, shared)

/-- Bind a new record: it joins the table and the end of its comparator's list, whose specification it gives or shares
(R39, R41, R49, R50). -/
def bindRecord (x : Record) (s : State) : State :=
  { s with records := insertRecord x s.records }.modBank x.target fun b =>
    b.modify x.comparator fun c => { spec := some x.spec, subs := c.subs ++ [x.handle] }

/-- SETBRK, match form (R47 to R51). -/
def takeSetbrk (n : Index) (tag : Byte) (t : Index) (mode : Byte) (address mask : Addr) (passes : Half) (cond : Option DataCond)
    (s : State) : State :=
  match s.setbrkVerdict n t mode address mask cond with
  | .inl st => s.respondPlain n tag 0x20 st
  | .inr (k, a, h, c, shared) =>
    let m := setbrkSpec k address mask cond
    let x : Record :=
      { handle := h, owner := n, target := t, kind := k, address := m.address, mask := m.mask, cond := m.cond,
        passes, remaining := passes, action := a, persistence := modePersistence mode, hits := 0, comparator := c }
    ((s.bindRecord x).watchSince s t).respondNow n
      { tag, status := .ok, kind := 0x20, payload := [handleByte h, indexByte c, flagByte shared] }

/-- CLRBRK (R63, R64). -/
def takeClrbrk (n : Index) (tag handle : Byte) (s : State) : State :=
  match toHandle? handle with
  | none => s.respondPlain n tag 0x21 .badOperand
  | some h =>
    match s.record? h with
    | none => s.respondPlain n tag 0x21 .noSuchBreak
    | some x =>
      if x.owner ≠ n ∧ s.isSupervisor n = false then s.respondPlain n tag 0x21 .notOwner
      else
        let s1 := (s.dropRecord h).watchSince s x.target
        let s2 := if x.owner = n then s1 else s1.queueNotice x.owner (.revokedBreak h x.target)
        s2.respondNow n
          { tag, status := .ok, kind := 0x21,
            payload := [indexByte x.target, flagByte ((s1.bank x.target).get x.comparator).subs.isEmpty] }

/-- The fields of one part of a record (R65, Table 8-7). -/
def qbrkPayload (s : State) (x : Record) (part : Byte) : List Byte :=
  if part = 0 then
    [indexByte x.owner, indexByte x.target, x.kind.code, x.action.code, x.persistence.code, indexByte x.comparator,
      byteOf (s.position x), flagByte x.cond.isSome]
  else if part = 1 then bytes24 x.address ++ bytes24 x.mask
  else if part = 2 then bytes16 x.passes ++ bytes16 x.remaining ++ bytes16 x.hits
  else
    match x.cond with
    | some c => flagByte true :: (bytes32 c.value ++ bytes32 c.mask)
    | none => flagByte false :: (bytes32 0 ++ bytes32 0)

/-- QBRK (R65): it changes nothing. -/
def takeQbrk (n : Index) (tag handle part : Byte) (s : State) : State :=
  match toHandle? handle with
  | none => s.respondPlain n tag 0x22 .badOperand
  | some h =>
    if 3 < part.toNat then s.respondPlain n tag 0x22 .badOperand
    else
      match s.record? h with
      | none => s.respondPlain n tag 0x22 .noSuchBreak
      | some x => s.respondNow n { tag, status := .ok, kind := 0x22, payload := s.qbrkPayload x part }

/-- The first check of R71 that fails, after the target number. -/
def accessRefusal? (s : State) (n t : Index) (op : AccOp) (space : Byte) (location : Addr) : Option Status :=
  match Space.ofByte? space with
  | none => some .badOperand
  | some sp =>
    if sp = .core ∧ Config.maxCoreIndex < location.toNat then some .badOperand
    else
      let write := match op with | .write _ => true | .read => false
      if write && s.isObserver n then some .role
      else if write && (s.rc t).lockedAgainst n then some .locked
      else if Config.maxAccesses ≤ (s.acc t).queue.length then some .queueFull
      else none

/-- An accepted access joins the tail of the queue, and an empty queue's new head is examined at once (R71, R72). -/
def addAccess (n : Index) (tag : Byte) (t : Index) (op : AccOp) (space : Space) (location : Addr) (s : State) : State :=
  let s1 := (s.joinWindow n tag).modAcc t fun a =>
    { a with queue := a.queue ++ [{ session := n, tag, op, space, location, inFlight := false, written := false, discard := false }] }
  if (s.acc t).queue.isEmpty then s1.examine t else s1

/-- READ (R71). -/
def takeRead (n : Index) (tag : Byte) (t : Index) (space : Byte) (location : Addr) (s : State) : State :=
  match s.accessRefusal? n t .read space location with
  | some st => s.respondPlain n tag 0x30 st
  | none => s.addAccess n tag t .read ((Space.ofByte? space).getD .core) location

/-- WRITE (R71). -/
def takeWrite (n : Index) (tag : Byte) (t : Index) (space : Byte) (location : Addr) (data : Word) (s : State) : State :=
  match s.accessRefusal? n t (.write data) space location with
  | some st => s.respondPlain n tag 0x31 st
  | none => s.addAccess n tag t (.write data) ((Space.ofByte? space).getD .core) location

end State

end Sys2Proof.Machine
end

