-- ==== Sys2Proof/Machine/PortOps.lean ====
section
/-! DEFINITION. Attach and detach, and how the Run Control Unit and the Access Engine take target reports, grants, replies and expiries
(sections 1.5 to 1.7, 2.3, 4.2 to 4.6, 9.4 to 9.9, 10.3). -/

namespace Sys2Proof.Machine.State

/-! ### Attach and detach (R21, R23, R172, R182) -/

/-- Attach begins: RST_OFF with the hold flag set where reset asserted is set, then WATCH, then PROBE under the run timer. -/
def attach (t : Index) (s : State) : State :=
  let s1 := if (s.port t).resetAsserted then s.hand t (.rstOff true) else s
  ((s1.sendWatch t).handRc t .probe).modPort t fun p => { p with link := .probing }

/-- The port is left with nothing outstanding and nothing to send, in link state `x` (R171, R174). A message in its slot is left to be sent
to its end, as R171 says, also when PORT_ENABLE is set off, where R169 and Table 9-4 stop the clock and hold the data output low: the
model's choice (log entry 32). -/
def idlePort (t : Index) (x : LinkState) (s : State) : State :=
  s.modPort t fun p => { p with outstanding := none, sendList := [], link := x }

/-- Detach (R23, R94, R191), in the order of R23's text with the TRESET response before the waiters (log entry 13). -/
def detach (t : Index) (x : LinkState) (s : State) : State :=
  let s1 := (s.idlePort t x).modRc t fun r => { r with run := .detached, relDefer := false, stopCause := none }
  let s2 := ((s1.endReset t .detached []).answerAll t .detached).failSeq t .detached
  (s2.failAllAccesses t .detached).notifyState t

/-- The port loses its target, by PRESENT falling or PORT_ENABLE set off: a detach when it was ACTIVE, the end of an attach when it was
PROBING (Table 9-4). -/
def loseTarget (t : Index) (x : LinkState) (s : State) : State :=
  match (s.port t).link with
  | .active => s.detach t x
  | .probing => s.idlePort t x
  | .absent => s.idlePort t x
  | .disabled => s.idlePort t x

/-! ### Watch after a report (R46) -/

/-- A report answers an outstanding RST_OFF, or is the first taken after an expiry on one: the target's watch is off, so WATCH(on) is
sent if the demand is on, and otherwise the watch enable is off. -/
def rewatch (t : Index) (s : State) : State :=
  let s1 := s.modPort t fun p => { p with watchOwed := false }
  if s1.demand t then s1.sendWatch t else s1

/-- When the link state becomes ACTIVE, WATCH is sent if the demand differs from the watch enable (its place among the event's messages is
log entry 10). -/
def watchAtActive (t : Index) (s : State) : State :=
  if (s.port t).watchEnable = s.demand t then s else s.sendWatch t

/-- What the Target Port Controller does about the watch after a report that found the port in `before` (R46). -/
def watchAfterReport (s before : State) (t : Index) : State :=
  let s1 :=
    match before.outstandingMsg t with
    | some (.rstOff _) => (s.modPort t fun p => { p with watchEnable := false }).rewatch t
    | _ => if (before.port t).watchOwed then s.rewatch t else s
  if (before.port t).link = .probing then s1.watchAtActive t else s1

/-! ### HALTED reports (R14, R15, R18, R22, R31, R32) -/

/-- SELF joins the hold set. -/
def selfJoins (t : Index) (s : State) : State := s.modRc t fun r => { r with hold := r.hold.addSelf }

/-- SELF joins an empty hold set (R20, R22). -/
def selfJoinsIfEmpty (t : Index) (s : State) : State :=
  if (s.rc t).hold.isEmpty then s.selfJoins t else s

/-- The program counter of a report becomes the last pc (R14). -/
def setPc (t : Index) (pc : Addr) (s : State) : State := s.modRc t fun r => { r with lastPc := pc }

/-- The halt cause that a stop cause gives (R4). -/
def causeOfStop : Option StopCause → HaltCause
  | some (.requested n) => .requested n
  | some (.brk h) => .brk h
  | some .self => .self
  | none => .self

/-- A sequence continues after a report (R31). -/
def seqContinues (r : RunControl) (q : StepSeq) (self step : Bool) : Bool :=
  !self && step && q.done < q.requested && !q.interrupted && !q.aborted && q.brk.isNone && r.hold.isOnly q.session &&
    !r.lockedAgainst q.session

/-- A HALTED report in STEPPING (R30, R31, R32). -/
def haltedInStepping (t : Index) (self step : Bool) (pc : Addr) (s : State) : State :=
  match (s.rc t).stepSeq with
  | none => s.setPc t pc
  | some q =>
    if !q.outstanding then s.setPc t pc
    else
      let own := self || !step
      let q1 := { q with outstanding := false, done := if step then q.done + 1 else q.done, interrupted := q.interrupted || own }
      let s1 := (s.setPc t pc).modRc t fun r => { r with stepSeq := some q1 }
      let s2 := if own then s1.selfJoins t else s1
      if seqContinues (s2.rc t) q1 self step then s2.sendStep t else s2.endSeq t own

/-- A HALTED report in RESETTING (R18, R191): discarded in phase HOLDING; in RELEASED it ends the reset. -/
def haltedInReset (t : Index) (pc : Addr) (s : State) : State :=
  match (s.rc t).resetRec with
  | none => s
  | some q =>
    match q.phase with
    | .holding => s
    | .released flag =>
      let cause := if flag then HaltCause.resetHeld else .self
      let s1 := if flag then s.setPc t pc else (s.setPc t pc).selfJoins t
      (s1.endReset t .ok (RunState.halted.code :: haltCauseBytes (some cause))).enterHalted t cause

/-- A HALTED report taken by the run state it finds (Table 1-5). `probing`: it answers the attach PROBE. -/
def haltedByRun (t : Index) (self step probing : Bool) (pc : Addr) (s : State) : State :=
  match (s.rc t).run with
  | .detached => if probing then ((s.setPc t pc).selfJoinsIfEmpty t).enterHalted t .self else s
  | .running => ((s.setPc t pc).selfJoins t).enterHalted t .self
  | .stopping =>
    let s1 := s.setPc t pc
    (if self then s1.selfJoins t else s1).enterHalted t (causeOfStop (s.rc t).stopCause)
  | .halted => s.setPc t pc
  | .releasing => ((s.setPc t pc).selfJoins t).enterHalted t .self
  | .stepping => s.haltedInStepping t self step pc
  | .svcPending => (((s.cancelService t).setPc t pc).selfJoins t).enterHalted t .self
  | .service => ((s.setPc t pc).selfJoins t).enterHalted t .self
  | .unresponsive => ((s.setPc t pc).selfJoinsIfEmpty t).enterHalted t (causeOfStop (s.rc t).stopCause)
  | .resetting => s.haltedInReset t pc

/-! ### RUNNING reports (R16, R17, R18, R22, R32) -/

/-- RUNNING with nobody holding the target, otherwise the target is stopped. -/
def runOrStop (t : Index) (s : State) : State :=
  if (s.rc t).hold.isEmpty then s.enterRunning t else s.stop t

/-- A RUNNING report in STEPPING (R32): discarded while a STEP is outstanding; otherwise the sequence ends without entering HALTED. With
the hold set not empty the RESUME waiters then stay in the list, which R5, R32 and R36 leave open (log entry 31). -/
def runningInStepping (t : Index) (s : State) : State :=
  match (s.rc t).stepSeq with
  | none => s
  | some q =>
    if q.outstanding then s
    else
      let q1 := { q with interrupted := true }
      ((s.respondStep t q1 (seqStatus (s.rc t) q1)).modRc t fun r => { r with stepSeq := none }).runOrStop t

/-- A RUNNING report in RESETTING (R18, R191). -/
def runningInReset (t : Index) (s : State) : State :=
  match (s.rc t).resetRec with
  | none => s
  | some q =>
    match q.phase with
    | .holding => s
    | .released _ =>
      let entered := if (s.rc t).hold.isEmpty then RunState.running else .stopping
      (s.endReset t .ok (entered.code :: haltCauseBytes none)).runOrStop t

/-- A RUNNING report taken by the run state it finds (Table 1-6). In HALTED with the hold set not empty the RESUME waiters of the deferral
it clears stay in the list, which the manual leaves open (log entry 31). -/
def runningByRun (t : Index) (probing : Bool) (s : State) : State :=
  match (s.rc t).run with
  | .detached => if probing then s.runOrStop t else s
  | .running => s
  | .stopping => s
  | .halted => (s.modRc t fun r => { r with relDefer := false }).runOrStop t
  | .releasing =>
    if (s.rc t).hold.isEmpty then s.enterRunning t else (s.answerResumes t).stop t
  | .stepping => s.runningInStepping t
  | .svcPending => s
  | .service => s
  | .unresponsive => s.runOrStop t
  | .resetting => s.runningInReset t

/-! ### The way of a report through the port (R172, R173, R175, R177) -/

/-- In RESETTING before RST_OFF is handed, reports are discarded and count as not taken (R18, R181). -/
def discardsReports (s : State) (t : Index) : Bool :=
  match (s.rc t).run, (s.rc t).resetRec with
  | .resetting, some q => match q.phase with | .holding => true | .released _ => false
  | _, _ => false

/-- A report arrives in PROBING or ACTIVE: the message it answers is no longer outstanding, an attach becomes ACTIVE, the Run Control
Unit takes the report by `f`, the watch is dealt with (after any STOP or RUN that `f` hands, which R46 leaves open but for the answer to
RST_OFF: the model's choice, log entry 10), and the queue is examined where the run state changed. -/
def takeReport (t : Index) (answers : RcMsg → Bool) (f : Bool → State → State) (s : State) : State :=
  let probing := (s.port t).link == .probing
  let s1 := match s.outstandingMsg t with
    | some m => if answers m then s.clearOutstanding t else s
    | none => s
  let s2 := if probing then s1.modPort t fun p => { p with link := .active } else s1
  if s.discardsReports t then s2
  else ((f probing s2).watchAfterReport s t).examineSince s t

/-- The port takes reports in PROBING and ACTIVE only (R173). -/
def reportsArrive (s : State) (t : Index) : Bool :=
  match (s.port t).link with
  | .probing => true
  | .active => true
  | .absent => false
  | .disabled => false

/-- A well-formed HALTED message. -/
def takeHalted (t : Index) (flags : Byte) (pc : Addr) (s : State) : State :=
  if s.reportsArrive t then
    s.takeReport t RcMsg.answeredByHalted fun probing => haltedByRun t (selfFlag flags) (stepFlag flags) probing pc
  else s

/-- A well-formed RUNNING message. -/
def takeRunning (t : Index) (s : State) : State :=
  if s.reportsArrive t then s.takeReport t RcMsg.answeredByRunning fun probing => runningByRun t probing else s

/-! ### Service grants (R85, R90, R178) -/

/-- The answer to a late grant (R90): an SVC_EXIT that is not run-control, or none. -/
def lateGrant (t : Index) (s : State) : State :=
  match (s.rc t).run with
  | .running => s.hand t (.svcExit false)
  | .releasing => s.hand t (.svcExit false)
  | .stopping => s.hand t (.svcExit true)
  | .halted => s.hand t (.svcExit true)
  | .service => s
  | .stepping => s
  | .unresponsive => s
  | .resetting => s
  | .detached => s
  | .svcPending => s

/-- A well-formed SVC_GRANT message. -/
def takeGrant (t : Index) (s : State) : State :=
  if (s.port t).link = .active then
    if (s.rc t).run = .svcPending ∧ s.outstandingMsg t = some .svcReq then
      (((s.clearOutstanding t).modAcc t fun a => { a with batch := 0 }).setRun t .service).examine t
    else s.lateGrant t
  else s

/-! ### Access replies and timeouts (R76 to R80, R179) -/

/-- A reply that matches the outstanding exchange, by its phase (R76, R77). -/
def replyByPhase (t : Index) (e : AccEntry) (ph : Phase) (ok : Bool) (data : Word) (s : State) : State :=
  match ph with
  | .read => if ok then s.endByReply t .ok (bytes32 data) else s.endByReply t .targetError []
  | .write =>
    if ok then
      let e1 := { e with written := true }
      let s1 := s.setHead t e1
      if s.stillHalted t then s1.handAcc t .read .readBack e1 else s1.endByReply t .interrupted []
    else s.endByReply t .targetError []
  | .readBack =>
    let differs := match e.op with | .write w => data != w | .read => false
    if ok then s.endByReply t .ok (bytes32 data ++ [flagByte differs]) else s.endByReply t .targetError []

/-- A well-formed ACC_REPLY message: handed on when the port is ACTIVE and its number is that of the outstanding ACC (R179). -/
def takeReply (t : Index) (number result : Byte) (data : Word) (s : State) : State :=
  if (s.port t).link = .active then
    match (s.acc t).exchange, (s.acc t).queue with
    | some x, e :: _ => if x.number = number then s.replyByPhase t e x.phase (result == 0) data else s
    | _, _ => s
  else s

/-- The exchange timer expires (R80): the access ends TIMEOUT, and a target that should have been halted becomes UNRESPONSIVE. -/
def takeExchangeTimeout (t : Index) (s : State) : State :=
  if (s.acc t).exchange.isSome then
    let s1 := s.endAccess t .timeout []
    (if s.stillHalted t then s1.enterUnresponsive t else s1).examine t
  else s

/-- The grant timer expires (R89, R176). -/
def takeGrantTimeout (t : Index) (s : State) : State :=
  if s.outstandingMsg t = some .svcReq then
    (((s.cancelService t).failHead t .timeout).enterRunning t).examine t
  else s

/-- The timer of an outstanding message expires (R19, R176): the message is no longer outstanding and the target becomes UNRESPONSIVE. -/
def expireRc (t : Index) (s : State) : State := (s.clearOutstanding t).enterUnresponsive t

/-- The stop timer (R19). -/
def takeStopTimeout (t : Index) (s : State) : State :=
  match s.outstandingMsg t with
  | some .stop => (s.expireRc t).examine t
  | some .step => (s.expireRc t).examine t
  | some .svcExitHold => (s.expireRc t).examine t
  | _ => s

/-- The run timer (R19, R46, R172): on PROBE the link state becomes ACTIVE; on RST_OFF the watch enable is off and a WATCH is owed. -/
def takeRunTimeout (t : Index) (s : State) : State :=
  match s.outstandingMsg t with
  | some .run => (s.expireRc t).examine t
  | some .probe => (((s.expireRc t).modPort t fun p => { p with link := .active }).watchAtActive t).examine t
  | some (.rstOff _) =>
    ((s.expireRc t).modPort t fun p => { p with watchEnable := false, watchOwed := true }).examine t
  | _ => s

/-- The reset hold timer (R182, R190): RST_OFF with the hold flag that the hold set gives. -/
def takeResetHold (t : Index) (s : State) : State :=
  match (s.rc t).resetRec, (s.rc t).resetTimer with
  | some q, some _ =>
    let flag := !(s.rc t).hold.isEmpty
    (s.modRc t fun r => { r with resetRec := some { q with phase := .released flag }, resetTimer := none }).handRc t (.rstOff flag)
  | _, _ => s

end Sys2Proof.Machine.State
end

