-- ==== Sys2Proof/Machine/ConfigRequests.lean ====
section
/-! DEFINITION. How the Port Configuration Store takes CONFIG (chapter 10). -/

namespace Sys2Proof.Machine

/-- The current value of an item (Table 10-1); its code is 0 to 6. -/
def PortConfig.value (c : PortConfig) (item : Byte) : Byte :=
  if item = 0 then c.stop
  else if item = 1 then c.run
  else if item = 2 then c.grant
  else if item = 3 then c.exchange
  else if item = 4 then c.resetHold
  else if item = 5 then flagByte c.intrusive
  else flagByte c.portEnable

/-- The configuration with the value of an item replaced. -/
def PortConfig.withValue (c : PortConfig) (item value : Byte) : PortConfig :=
  if item = 0 then { c with stop := value }
  else if item = 1 then { c with run := value }
  else if item = 2 then { c with grant := value }
  else if item = 3 then { c with exchange := value }
  else if item = 4 then { c with resetHold := value }
  else if item = 5 then { c with intrusive := value != 0 }
  else { c with portEnable := value != 0 }

/-- An item code of Table 10-1 (check 2 of R185). -/
def configItem (item : Byte) : Bool := item.toNat ≤ 6

/-- A value in the range of its item (check 4 of R185). -/
def configValue (item value : Byte) : Bool :=
  if item.toNat ≤ 4 then value != 0 else value.toNat ≤ 1

namespace State

/-- The consequence of a changed item (R186): only a change of PORT_ENABLE acts at once. -/
def configChanged (t : Index) (item value : Byte) (s : State) : State :=
  if item = 6 then
    if value = 0 then s.loseTarget t .disabled
    else if (s.port t).present then s.attach t
    else s.modPort t fun p => { p with link := .absent }
  else s

/-- CONFIG, read form (R185): it changes nothing. -/
def takeConfigRead (n : Index) (tag : Byte) (t : Index) (item : Byte) (s : State) : State :=
  if !configItem item then s.respondPlain n tag 0x50 .badOperand
  else s.respondNow n { tag, status := .ok, kind := 0x50, payload := [item, (s.cfg t).value item] }

/-- The first check of R185 that a setting form fails, after the target number. -/
def configRefusal? (s : State) (n : Index) (item value : Byte) : Option Status :=
  if !configItem item then some .badOperand
  else if !s.isSupervisor n then some .role
  else if !configValue item value then some .badOperand
  else none

/-- CONFIG, setting form (R185, R186): the value, then its consequence, then the response. -/
def takeConfigSet (n : Index) (tag : Byte) (t : Index) (item value : Byte) (s : State) : State :=
  match s.configRefusal? n item value with
  | some st => s.respondPlain n tag 0x50 st
  | none =>
    let s1 :=
      if (s.cfg t).value item = value then s
      else (s.modCfg t fun c => c.withValue item value).configChanged t item value
    s1.respondNow n { tag, status := .ok, kind := 0x50, payload := [item, (s1.cfg t).value item] }

end State

end Sys2Proof.Machine
end

