-- ==== Sys2Proof/Machine/RunRequests.lean ====
section
/-! DEFINITION. How the Run Control Unit of the named target takes HALT, RESUME, STEP, STATUS (chapters 1 and 2), LOCK, UNLOCK, FREL
(chapter 5) and TRESET (chapter 10). `n` is the requester, on link Ln. -/

namespace Sys2Proof.Machine

/-- An accepted HALT is answered at once in these run states, with this status (Table 1-3); none where it is deferred. -/
def haltAnswer : RunState → Option Status
  | .halted => some .ok
  | .detached => some .detached
  | .unresponsive => some .unresponsive
  | .running => none
  | .stopping => none
  | .releasing => none
  | .stepping => none
  | .svcPending => none
  | .service => none
  | .resetting => none

/-- The run states in which a RESUME that empties the hold set is deferred (R13). -/
def resumeDefers : RunState → Bool
  | .halted => true
  | .stopping => true
  | .releasing => true
  | .stepping => true
  | .detached => false
  | .running => false
  | .svcPending => false
  | .service => false
  | .unresponsive => false
  | .resetting => false

/-- The status of an immediate answer to a RESUME that removed a member (Table 1-4). -/
def resumeAnswer : RunState → Status
  | .detached => .detached
  | .unresponsive => .unresponsive
  | .halted => .ok
  | .stopping => .ok
  | .releasing => .ok
  | .stepping => .ok
  | .running => .ok
  | .svcPending => .ok
  | .service => .ok
  | .resetting => .ok

namespace State

/-- HALT (R9, R10, R159): BUSY where it would be deferred and the window is closed, the operand length, ROLE, LOCKED; then the claim, and
a waiter or an immediate answer by Table 1-3. -/
def takeHalt (n : Index) (tag : Byte) (t : Index) (emptyOps : Bool) (s : State) : State :=
  let accepted := !s.isObserver n && !(s.rc t).lockedAgainst n
  if accepted && (haltAnswer (s.rc t).run).isNone && !s.windowOpen n then s.respondPlain n tag 0x10 .busy
  else if !emptyOps then s.respondPlain n tag 0x10 .badOperand
  else if s.isObserver n then s.respondPlain n tag 0x10 .role
  else if (s.rc t).lockedAgainst n then s.respondPlain n tag 0x10 .locked
  else
    match haltAnswer (s.rc t).run with
    | some st => (s.claim t n (.requested n)).respondPlain n tag 0x10 st
    | none => (s.addWaiter t n tag .halt).claim t n (.requested n)

/-- The hold set that a RESUME of Sn leaves (R13). -/
def holdAfterResume (s : State) (n t : Index) : HoldSet := ((s.rc t).hold.remove n).removeSelf

/-- RESUME (R13, R34, R159): the requester and SELF leave the hold set, the requester's HALT waiters are answered ABORTED, and the
unit acts by Table 1-4. -/
def takeResume (n : Index) (tag : Byte) (t : Index) (emptyOps : Bool) (s : State) : State :=
  let r := s.rc t
  let hold := s.holdAfterResume n t
  let removes := r.hold.has n || r.hold.self
  let deferred := removes && hold.isEmpty && resumeDefers r.run
  if !s.isObserver n && deferred && !s.windowOpen n then s.respondPlain n tag 0x11 .busy
  else if !emptyOps then s.respondPlain n tag 0x11 .badOperand
  else if s.isObserver n then s.respondPlain n tag 0x11 .role
  else if !removes then s.respondPlain n tag 0x11 .notHeld
  else
    let s1 := s.modRc t fun x =>
      { x with
        hold
        stepSeq := x.stepSeq.map fun q => if q.session = n && r.hold.has n then { q with aborted := true } else q }
    let s2 := s1.abortHalts t (· == n)
    if deferred then
      let s3 := s2.addWaiter t n tag .resume
      if r.run = .halted then s3.afterHoldChange t else s3
    else
      let s3 := if r.run = .halted then s2.afterHoldChange t else s2
      let st := resumeAnswer r.run
      s3.respondNow n { tag, status := st, kind := 0x11, payload := if st = .ok then s3.resumePayload t else [] }

/-- The first check of R28 that fails, after the target number. -/
def stepRefusal? (s : State) (n t : Index) (count : Byte) : Option Status :=
  if count = 0 then some .badOperand
  else if s.isObserver n then some .role
  else if (s.rc t).lockedAgainst n then some .locked
  else if (s.rc t).run ≠ .halted then some .notHalted
  else if !(s.rc t).hold.has n then some .notHeld
  else if (s.rc t).hold.hasOther n then some .heldByOther
  else none

/-- The step sequence record at acceptance, its first STEP not yet handed (Table 2-1). -/
def newSeq (n : Index) (tag count : Byte) : StepSeq :=
  { session := n, tag, requested := count.toNat, done := 0, outstanding := false, interrupted := false, brk := none,
    aborted := false, discard := false }

/-- STEP (R28, R29, R30): SELF leaves, the record is created, the run state is STEPPING, and the first STEP is handed unless an access
exchange is in flight. A release deferral is cleared (R7); when its RESUME waiters are then answered is left open, and the model keeps
them in the list until the sequence ends or another of R5's events answers them (log entry 31). -/
def takeStep (n : Index) (tag : Byte) (t : Index) (count : Byte) (s : State) : State :=
  match s.stepRefusal? n t count with
  | some st => s.respondPlain n tag 0x12 st
  | none =>
    let s1 := (s.joinWindow n tag).modRc t fun r =>
      { r with hold := r.hold.removeSelf, relDefer := false, stepSeq := some (newSeq n tag count) }
    let s2 := if (s.acc t).inFlight then s1 else s1.sendStep t
    s2.setRun t .stepping

/-- STATUS (R24): it changes nothing. -/
def takeStatus (n : Index) (tag : Byte) (t : Index) (s : State) : State :=
  let r := s.rc t
  s.respondNow n
    { tag, status := .ok, kind := 0x13,
      payload := [r.run.code, r.hold.byte, ownerByte r.lock] ++ haltCauseBytes r.haltCause ++ bytes24 r.lastPc ++
        [byteOf (s.acc t).queue.length, byteOf (s.boundCount t)] }

/-- LOCK (R99); a grant to a session other than the stepper interrupts a step sequence (R33). -/
def takeLock (n : Index) (tag : Byte) (t : Index) (s : State) : State :=
  let granted := { tag, status := Status.ok, kind := 0x14, payload := [indexByte t, indexByte n] }
  if s.isObserver n then s.respondPlain n tag 0x14 .role
  else
    match (s.rc t).lock with
    | some o =>
      if o = n then s.respondNow n granted
      else s.respondNow n { tag, status := .locked, kind := 0x14, payload := [indexByte o] }
    | none =>
      let s1 := s.modRc t fun r =>
        { r with
          lock := some n
          stepSeq := r.stepSeq.map fun q => if q.session = n then q else { q with interrupted := true } }
      (s1.notifyState t).respondNow n granted

/-- UNLOCK (R100). -/
def takeUnlock (n : Index) (tag : Byte) (t : Index) (s : State) : State :=
  if s.isObserver n then s.respondPlain n tag 0x15 .role
  else if (s.rc t).lock ≠ some n then s.respondPlain n tag 0x15 .notOwner
  else ((s.modRc t fun r => { r with lock := none }).notifyState t).respondPlain n tag 0x15 .ok

/-- The sessions that a forced release by Sn revokes for hold (R105). -/
def revokedHold (s : State) (n t : Index) : Quad Bool := ((s.rc t).hold.remove n).members

/-- The session that a forced release by Sn revokes for lock (R106). -/
def revokedLock (s : State) (n t : Index) : Quad Bool :=
  match (s.rc t).lock with
  | some o => if o = n then .all false else (Quad.all false).set o true
  | none => .all false

/-- FREL (R104 to R108): the holds, the ABORTED answers, the REVOKED notices, the action of Table 5-3, the lock, the response. That the
ABORTED answers are produced before the REVOKED notices is the model's choice: R105, R108 and R133 leave it open (log entry 28). That the
lock is cleared after the action of Table 5-3 is log entry 9. That the response names every session revoked, also one whose REVOKED notice
is lost, is the model's choice between R104 and Table 8-7 (log entry 33). -/
def takeFrel (n : Index) (tag : Byte) (t : Index) (s : State) : State :=
  if !s.isSupervisor n then s.respondPlain n tag 0x16 .role
  else
    let r := s.rc t
    let held := s.revokedHold n t
    let locked := s.revokedLock n t
    let s1 := s.modRc t fun x =>
      { x with
        hold := { members := (Quad.all false).set n (x.hold.has n), self := false }
        stepSeq := x.stepSeq.map fun q => if held.get q.session then { q with aborted := true } else q }
    let s2 := s1.abortHalts t held.get
    let s3 := indices.foldl (fun s' m =>
      if held.get m || locked.get m then s'.queueNotice m (.revokedClaims t (held.get m) (locked.get m)) else s') s2
    let s4 := if r.run = .halted ∧ (s1.rc t).hold ≠ r.hold then s3.afterHoldChange t else s3
    let s5 := if locked = .all false then s4 else (s4.modRc t fun x => { x with lock := none }).notifyState t
    s5.respondNow n
      { tag, status := .ok, kind := 0x16,
        payload := [(s5.rc t).hold.byte, ownerByte (s5.rc t).lock,
          quadByte ⟨held.q0 || locked.q0, held.q1 || locked.q1, held.q2 || locked.q2, held.q3 || locked.q3⟩] }

/-- A target reset begins (R189): the in-flight access, the step sequence and the waiters are answered TARGET_RESET, SELF leaves, RST_ON
goes into an emptied send list (R181), and the hold time begins. A reset in progress is answered first (R188). -/
def beginReset (n : Index) (tag : Byte) (t : Index) (s : State) : State :=
  let s1 := s.endReset t .targetReset []
  let s2 := ((s1.failInFlight t .targetReset).failSeq t .targetReset).answerAll t .targetReset
  let s3 := s2.modRc t fun r =>
    { r with
      hold := r.hold.removeSelf, relDefer := false, stopCause := none
      resetRec := some { session := n, tag, discard := false, phase := .holding }
      resetTimer := some (s.cfg t).resetHold.toNat }
  let s4 := s3.modPort t fun p => { p with outstanding := none, sendList := [] }
  (s4.hand t .rstOn).setRun t .resetting

/-- TRESET (R188). -/
def takeTreset (n : Index) (tag : Byte) (t : Index) (s : State) : State :=
  if !s.isSupervisor n then s.respondPlain n tag 0x51 .role
  else if (s.rc t).run = .detached then s.respondPlain n tag 0x51 .detached
  else (s.joinWindow n tag).beginReset n tag t

end State

end Sys2Proof.Machine
end

