-- ==== Sys2Proof/Machine/SessionRequests.lean ====
section
/-! DEFINITION. How the Session Table takes OPEN, CLOSE and PING (chapter 6), and the Notice Queue ACK, REPLAY and WATCH (chapter 7). -/

namespace Sys2Proof.Machine.State

/-- The record of a new session (R115). -/
def newSession (role : Role) (lease : Byte) : OpenSession :=
  { role, lease, leaseTimer := some lease.toNat, tags := [], watch := .all false }

/-- OPEN (R114, R115): the checks in their order, then the record opens and its notices are numbered from 0. -/
def takeOpen (l : Index) (tag role lease : Byte) (s : State) : State :=
  match (s.session l).current with
  | some o => s.respondNow l { tag, status := .already, kind := 0x01, payload := [o.role.code, o.lease] }
  | none =>
    match Role.ofByte? role with
    | none => s.respondPlain l tag 0x01 .badOperand
    | some r =>
      if lease.toNat = 0 ∨ Config.maxLease < lease.toNat then s.respondPlain l tag 0x01 .badOperand
      else if r = .supervisor ∧ (s.session l).capable = false then s.respondPlain l tag 0x01 .role
      else
        match (if r = .supervisor then s.supervisor else none) with
        | some n => s.respondNow l { tag, status := .supervisorTaken, kind := 0x01, payload := [indexByte n] }
        | none =>
          ((s.modSession l fun x => { x with current := some (newSession r lease) }).modNotice l
              fun q => { q with nextSeq := 0 }).respondNow l
            { tag, status := .ok, kind := 0x01,
              payload := [r.code, lease, indexByte l, flagByte (s.session l).capable] }

/-- CLOSE (R119): the OK response with the outstanding count, then the end of the session. -/
def takeClose (l : Index) (tag : Byte) (s : State) : State :=
  (s.respondNow l { tag, status := .ok, kind := 0x02, payload := [byteOf (s.outstanding l)] }).endSession l .close

/-- PING (R120). -/
def takePing (l : Index) (tag : Byte) (s : State) : State :=
  match (s.session l).current with
  | none => s
  | some o =>
    s.respondNow l
      { tag, status := .ok, kind := 0x03,
        payload := [o.role.code, o.lease, byteOf o.tags.length, byteOf (s.notice l).entries.length] }

/-- ACK (R138): the entry named and every older one leave the queue. -/
def takeAck (l : Index) (tag seq : Byte) (s : State) : State :=
  match NoticeQueue.afterSeq? seq (s.notice l).entries with
  | none => s.respondPlain l tag 0x40 .badOperand
  | some rest =>
    (s.modNotice l fun q => { q with entries := rest }).respondNow l
      { tag, status := .ok, kind := 0x40,
        payload := [byteOf ((s.notice l).entries.length - rest.length), byteOf rest.length] }

/-- REPLAY (R140): every entry is unsent again, and the queue offers its oldest to the arbiter. A LINK_FAULT entry that was unsent behind
one made unsent keeps its count. -/
def takeReplay (l : Index) (tag : Byte) (s : State) : State :=
  ((s.modNotice l fun q => { q with entries := NoticeQueue.unsend false q.entries }).arbitrate l).respondNow l
    { tag, status := .ok, kind := 0x41, payload := [byteOf (s.notice l).entries.length] }

/-- WATCH (R142): the watch set is replaced, and each target newly added gives a STATE notice to this session alone. -/
def takeWatch (l : Index) (tag mask : Byte) (s : State) : State :=
  if maskReserved mask then s.respondPlain l tag 0x42 .badOperand
  else
    let new := maskTargets mask
    let added := indices.filter fun t => new.get t && !s.watches l t
    (added.foldl (fun s' t => s'.queueNotice l (s'.stateBody t)) (s.modOpen l fun o => { o with watch := new })).respondNow l
      { tag, status := .ok, kind := 0x42, payload := [quadByte new] }

end Sys2Proof.Machine.State
end

