-- ==== Sys2Proof/Machine/LinkOps.lean ====
section
/-! DEFINITION. The Link Unit's receiver (section 8.3), its checks of a request and the way of a request to its owner
(section 8.4). -/

namespace Sys2Proof.Machine.State

/-! ### Owners (Table 8-9) -/

/-- A request that names a target, taken by an owner of that target. The Link Unit lets no number above 3 through (R160). -/
def atTarget (t : Byte) (f : Index → State → State) (s : State) : State :=
  match toIndex? t with
  | some i => f i s
  | none => s

/-- The owner of a routed request takes it (Table 8-9). `cond` is the data condition attached by the Link Unit (R151). -/
def ownerTake (l : Index) (tag : Byte) (q : Request) (cond : Option DataCond) (s : State) : State :=
  match q with
  | .openSession role lease => s.takeOpen l tag role lease
  | .close => s.takeClose l tag
  | .ping => s.takePing l tag
  | .halt t e => s.atTarget t fun i => takeHalt l tag i e
  | .resume t e => s.atTarget t fun i => takeResume l tag i e
  | .step t count => s.atTarget t fun i => takeStep l tag i count
  | .status t => s.atTarget t fun i => takeStatus l tag i
  | .lock t => s.atTarget t fun i => takeLock l tag i
  | .unlock t => s.atTarget t fun i => takeUnlock l tag i
  | .frel t => s.atTarget t fun i => takeFrel l tag i
  | .setbrk t mode a m p => s.atTarget t fun i => takeSetbrk l tag i mode a m p cond
  | .setbrkData _ _ => s
  | .clrbrk h => s.takeClrbrk l tag h
  | .qbrk h part => s.takeQbrk l tag h part
  | .read t space loc => s.atTarget t fun i => takeRead l tag i space loc
  | .write t space loc d => s.atTarget t fun i => takeWrite l tag i space loc d
  | .ack seq => s.takeAck l tag seq
  | .replay => s.takeReplay l tag
  | .watch mask => s.takeWatch l tag mask
  | .configRead t item => s.atTarget t fun i => takeConfigRead l tag i item
  | .configSet t item value => s.atTarget t fun i => takeConfigSet l tag i item value
  | .treset t => s.atTarget t fun i => takeTreset l tag i

/-- The owner takes the request that waits on Ll, if one does; one whose session has ended is dropped (R124). -/
def takeRouted (l : Index) (s : State) : State :=
  match (s.link l).routed with
  | none => s
  | some r =>
    let s1 := s.modLink l fun u => { u with routed := none }
    if r.inSession && !s.isOpen l then s1 else s1.ownerTake l r.tag r.request r.cond

/-- A request on its way to its owner, which takes it at once or, where the schedule says so, later (R124, R160, log entry 3). -/
def deliver (l : Index) (tag : Byte) (q : Request) (cond : Option DataCond) (s : State) : State :=
  let s1 := s.modLink l fun u => { u with routed := some { tag, request := q, cond, inSession := s.isOpen l } }
  match s.sched.delays with
  | [] => s1.takeRouted l
  | later :: rest =>
    let s2 := { s1 with sched := { s1.sched with delays := rest } }
    if later then s2 else s2.takeRouted l

/-- The request names a target above 3. -/
def namesNoTarget (q : Request) : Bool :=
  match q.target? with
  | some t => (toIndex? t).isNone
  | none => false

/-- Hand a request over to its owner; one that names a target above 3 is refused BAD_OPERAND (R160). -/
def handOver (l : Index) (tag : Byte) (q : Request) (cond : Option DataCond) (s : State) : State :=
  if namesNoTarget q then s.respondPlain l tag q.kind .badOperand else s.deliver l tag q cond

/-- Route a request that has passed the generic checks (R151, R160): the data form of SETBRK is taken here, and the match form takes
the pending data condition. -/
def route (l : Index) (tag : Byte) (q : Request) (s : State) : State :=
  match q with
  | .setbrkData v m =>
    (s.modLink l fun u => { u with pendingData := some { value := v, mask := m } }).respondPlain l tag 0x20 .ok
  | .setbrk _ mode _ _ _ =>
    let s1 := s.modLink l fun u => { u with pendingData := none }
    if modeDataFlag mode then
      match (s.link l).pendingData with
      | some c => s1.handOver l tag q (some c)
      | none => s1.respondPlain l tag 0x20 .badOperand
    else s1.handOver l tag q none
  | _ => s.handOver l tag q none

/-- The generic checks, in their order (R158). -/
def checkRequest (l : Index) (tag kind toh : Byte) (ops : List Byte) (s : State) : State :=
  if !Request.kinds.contains kind then s.respondPlain l tag kind .unknownKind
  else if !s.isOpen l && kind != 0x01 then s.respondPlain l tag kind .noSession
  else if (s.tags l).contains tag then s.respondPlain l tag kind .dupTag
  else if Request.deferredKinds.contains kind && !s.windowOpen l then s.respondPlain l tag kind .busy
  else
    match Request.parse kind toh ops with
    | none => s.respondPlain l tag kind .badOperand
    | some q => s.route l tag q

/-! ### The receiver (R154 to R157) -/

/-- The lease timer of the session on Ll is restarted at the full period (R117). -/
def restartLease (l : Index) (s : State) : State :=
  s.modOpen l fun o => { o with leaseTimer := some o.lease.toNat }

/-- A good frame, by the n bytes of its body (R157). -/
def goodFrame (l : Index) (body : List Byte) (s : State) : State :=
  match body with
  | tag :: kind :: toh :: ops =>
    ((s.modLink l fun u => { u with badFrames := 0 }).restartLease l).checkRequest l tag kind toh ops
  | _ => s

/-- The Link Unit after a discarded frame: the count rises, and the third in succession puts the receiver in HUNT (R155, R156). -/
def afterDiscard (u : LinkUnit) : LinkUnit :=
  if Config.badFrameLimit ≤ u.badFrames + 1 then
    { u with rx := .hunt, badFrames := Config.badFrameLimit, gapTimer := none, idleTimer := some Config.huntIdle }
  else { u with rx := .idle, badFrames := u.badFrames + 1, gapTimer := none }

/-- A frame is discarded (R155). -/
def discardFrame (l : Index) (s : State) : State := (s.modLink l afterDiscard).linkFault l

/-- A frame is complete (R154): a request still on its way is taken first (R160), then the check is compared. -/
def endFrame (l : Index) (n : Byte) (body : List Byte) (check : Byte) (s : State) : State :=
  let s1 := (s.modLink l fun u => { u with rx := .idle, gapTimer := none }).takeRouted l
  if crc8 (n :: body) = check then s1.goodFrame l body else s1.discardFrame l

/-- A byte taken in RECEIVING, `got` being the bytes after the start byte before it (R154). -/
def gatherByte (l : Index) (got : List Byte) (b : Byte) (s : State) : State :=
  match got with
  | [] =>
    if b.toNat < Config.minLength ∨ Config.maxLength < b.toNat then s.discardFrame l
    else s.modLink l fun u => { u with rx := .receiving [b], gapTimer := some Config.gapLimit }
  | n :: body =>
    if body.length = n.toNat then s.endFrame l n body b
    else s.modLink l fun u => { u with rx := .receiving (n :: (body ++ [b])), gapTimer := some Config.gapLimit }

/-- The receiver takes a byte by its state (R154, R156). -/
def receiveByte (l : Index) (s : State) (b : Byte) : State :=
  match (s.link l).rx with
  | .idle =>
    if b = requestStart then s.modLink l fun u => { u with rx := .receiving [], gapTimer := some Config.gapLimit } else s
  | .receiving got => s.gatherByte l got b
  | .hunt => s.modLink l fun u => { u with idleTimer := some Config.huntIdle }

/-- A whole request frame arrives on Ll, byte by byte and without a pause (log entry 1). -/
def requestArrives (l : Index) (tag : Byte) (q : Request) (s : State) : State := (q.frame tag).foldl (receiveByte l) s

end Sys2Proof.Machine.State
end

