-- ==== Sys2Proof/Machine/LinkEvents.lean ====
section
/-! DEFINITION. The meanings of the commands that come from a link's line and from the timers of a link and of a session
(chapters 6 and 8). -/

namespace Sys2Proof.Machine

namespace State

/-- The gap timer of Ll expires: the frame being received is discarded (R155). -/
def gapExpires (l : Index) (s : State) : State :=
  if (s.link l).gapTimer.isSome then s.discardFrame l else s

/-- The idle timer of HUNT expires (R156). -/
def huntIdleExpires (l : Index) (s : State) : State :=
  if (s.link l).idleTimer.isSome then s.modLink l fun u => { u with rx := .idle, badFrames := 0, idleTimer := none } else s

/-- The responses that a link break leaves: only the entry whose frame is in transmission, which is sent to its end (R147, R162,
log entry 12). -/
def inTransmission (u : LinkUnit) : List RespEntry :=
  match u.tx with
  | .response _ => u.respQ.take 1
  | .free => []
  | .notice _ => []

/-- A link break (R147): steps 1 to 4 in the Link Unit, then the end of the session with cause BREAK. -/
def breakDetected (l : Index) (s : State) : State :=
  (s.modLink l fun u =>
    { u with
      rx := .idle, badFrames := 0, gapTimer := none, idleTimer := none, pendingData := none
      respQ := inTransmission u }).endSession l .linkBreak

/-- The last byte of the frame in transmission has been sent: a response leaves its queue, and the arbiter chooses (R162, R166). -/
def frameEnds (l : Index) (s : State) : State :=
  match (s.link l).tx with
  | .free => s
  | .response _ => (s.modLink l fun u => { u with tx := .free, respQ := u.respQ.tail }).arbitrate l
  | .notice _ => (s.modLink l fun u => { u with tx := .free }).arbitrate l

/-- The lease timer of Sl runs. -/
def leaseRuns (s : State) (l : Index) : Bool :=
  match (s.session l).current with
  | some o => o.leaseTimer.isSome
  | none => false

/-- The lease of Sl expires (R118). -/
def leaseExpires (l : Index) (s : State) : State := if s.leaseRuns l then s.endSession l .lease else s

end State

/-- RECEIVED_BYTE (R154). -/
def execReceivedByte (l : Index) (b : Byte) (s : State) : Host.Outcome State Fault Refusal := .next (s.receiveByte l b)

/-- INTER_BYTE_GAP_EXPIRY (R155). -/
def execInterByteGapExpiry (l : Index) (s : State) : Host.Outcome State Fault Refusal := .next (s.gapExpires l)

/-- HUNT_IDLE_EXPIRY (R156). -/
def execHuntIdleExpiry (l : Index) (s : State) : Host.Outcome State Fault Refusal := .next (s.huntIdleExpires l)

/-- LINK_BREAK (R147). -/
def execLinkBreak (l : Index) (s : State) : Host.Outcome State Fault Refusal := .next (s.breakDetected l)

/-- FRAME_SENT (R166). -/
def execFrameSent (l : Index) (s : State) : Host.Outcome State Fault Refusal := .next (s.frameEnds l)

/-- LEASE_EXPIRY (R118). -/
def execLeaseExpiry (l : Index) (s : State) : Host.Outcome State Fault Refusal := .next (s.leaseExpires l)

end Sys2Proof.Machine
end

