-- ==== Sys2Proof/Machine/PortEvents.lean ====
section
/-! DEFINITION. The meanings of the commands that come from the hub reset pin, a target's lines and messages, a target's timers and
a port's slots (chapters 1, 4, 9 and 10). -/

namespace Sys2Proof.Machine

/-! ### Bytes of hub-to-target messages (Table 9-2) -/

/-- The op byte of an ACC. -/
def AccOp.code : AccOp → Byte
  | read => 0
  | write _ => 1

/-- The data word of an ACC, for a write only. -/
def AccOp.dataBytes : AccOp → List Byte
  | read => []
  | write w => bytes32 w

/-- The code and the fields of a message. -/
def PortMsg.body : PortMsg → List Byte
  | stop => [0x01]
  | run => [0x02]
  | step => [0x03]
  | svcReq => [0x04]
  | svcCancel => [0x05]
  | svcExit hold => [0x06, flagByte hold]
  | acc n op space loc => [0x07, n, op.code, space.code] ++ bytes24 loc ++ op.dataBytes
  | attn h => [0x08, handleByte h]
  | watch on => [0x09, flagByte on]
  | probe => [0x0A]
  | rstOn => [0x0B]
  | rstOff hold => [0x0C, flagByte hold]

/-- A message as its slot carries it: code, fields, check byte (R170). -/
def PortMsg.bytes (m : PortMsg) : List Byte := m.body ++ [crc8 m.body]

/-- Reset asserted after a message is begun (R181, R182). -/
def PortMsg.resetAfter (m : PortMsg) (was : Bool) : Bool :=
  match m with
  | rstOn => true
  | rstOff _ => false
  | _ => was

namespace State

/-- The hub after a hub reset before any attach (R26, R68, R95, R111, R127, R145, R168, R183, R184, R187). PRESENT is an input;
the queue of commands and the schedule are the model's own (log entry 21). -/
def afterReset (straps : Quad Straps) (s : State) : State :=
  { links := straps.map .reset
    sessions := straps.map .reset
    notices := .all .reset
    records := []
    targets := s.targets.map fun x => .reset x.port.present
    sched := s.sched
    pending := s.pending }

/-- Attach begins where PRESENT is high (R183). -/
def attachIfPresent (s : State) (t : Index) : State := if (s.port t).present then s.attach t else s

/-- A hub reset (R26). -/
def resetHub (straps : Quad Straps) (s : State) : State := indices.foldl attachIfPresent (s.afterReset straps)

/-- PRESENT rises (Table 9-4). -/
def presentRises (t : Index) (s : State) : State :=
  if (s.port t).present then s
  else
    let s1 := s.modPort t fun p => { p with present := true }
    if (s.port t).link = .absent then s1.attach t else s1

/-- PRESENT falls (Table 9-4). -/
def presentFalls (t : Index) (s : State) : State :=
  if (s.port t).present then
    let s1 := s.modPort t fun p => { p with present := false }
    if (s.port t).link = .disabled then s1 else s1.loseTarget t .absent
  else s

/-- A message that fails R170's verification is discarded at the port; another is taken by `f`. -/
def arrives (m : Option InMsg) (f : State → State) (s : State) : State :=
  match m with
  | some x => if x.wellFormed then f s else s
  | none => s

/-- A well-formed REF message (R173, R180). -/
def takeRefMsg (t : Index) (kind : Byte) (address : Addr) (data : Option Word) (s : State) : State :=
  if (s.port t).link = .active then
    match RefKind.ofByte? kind with
    | some k => s.takeRef t { kind := k, address, data }
    | none => s
  else s

/-- A slot begins (R169, R171): the oldest message of the send list is begun. No slot begins while the port is disabled. -/
def slotBegins (t : Index) (s : State) : State :=
  if (s.cfg t).portEnable then
    s.modPort t fun p =>
      match p.sendList with
      | [] => { p with slot := [] }
      | m :: rest => { p with slot := m.bytes, sendList := rest, resetAsserted := m.resetAfter p.resetAsserted }
  else s

end State

/-! ### Meanings -/

/-- HUB_RESET (R26). -/
def execHubReset (straps : Quad Straps) (s : State) : Host.Outcome State Fault Refusal := .next (s.resetHub straps)

/-- PRESENT_RISE (R172). -/
def execPresentRise (t : Index) (s : State) : Host.Outcome State Fault Refusal := .next (s.presentRises t)

/-- PRESENT_FALL (R172). -/
def execPresentFall (t : Index) (s : State) : Host.Outcome State Fault Refusal := .next (s.presentFalls t)

/-- HALTED_REPORT (R14). -/
def execHaltedReport (t : Index) (flags : Byte) (pc : Addr) (check : Byte) (s : State) : Host.Outcome State Fault Refusal :=
  .next (s.arrives (Instr.haltedReport t flags pc check).inMsg? (State.takeHalted t flags pc))

/-- RUNNING_REPORT (R16). -/
def execRunningReport (t : Index) (check : Byte) (s : State) : Host.Outcome State Fault Refusal :=
  .next (s.arrives (Instr.runningReport t check).inMsg? (State.takeRunning t))

/-- SVC_GRANT (R178). -/
def execSvcGrant (t : Index) (check : Byte) (s : State) : Host.Outcome State Fault Refusal :=
  .next (s.arrives (Instr.svcGrant t check).inMsg? (State.takeGrant t))

/-- ACC_REPLY (R179). -/
def execAccReply (t : Index) (number result : Byte) (data : Word) (check : Byte) (s : State) :
    Host.Outcome State Fault Refusal :=
  .next (s.arrives (Instr.accReply t number result data check).inMsg? (State.takeReply t number result data))

/-- REF (R52). -/
def execRef (t : Index) (kind : Byte) (address : Addr) (data : Option Word) (check : Byte) (s : State) :
    Host.Outcome State Fault Refusal :=
  .next (s.arrives (Instr.ref t kind address data check).inMsg? (State.takeRefMsg t kind address data))

/-- STOP_TIMER_EXPIRY (R19). -/
def execStopTimerExpiry (t : Index) (s : State) : Host.Outcome State Fault Refusal := .next (s.takeStopTimeout t)

/-- RUN_TIMER_EXPIRY (R19). -/
def execRunTimerExpiry (t : Index) (s : State) : Host.Outcome State Fault Refusal := .next (s.takeRunTimeout t)

/-- GRANT_TIMER_EXPIRY (R89). -/
def execGrantTimerExpiry (t : Index) (s : State) : Host.Outcome State Fault Refusal := .next (s.takeGrantTimeout t)

/-- EXCHANGE_TIMER_EXPIRY (R80). -/
def execExchangeTimerExpiry (t : Index) (s : State) : Host.Outcome State Fault Refusal := .next (s.takeExchangeTimeout t)

/-- RESET_HOLD_EXPIRY (R190). -/
def execResetHoldExpiry (t : Index) (s : State) : Host.Outcome State Fault Refusal := .next (s.takeResetHold t)

/-- SLOT_BEGIN (R171). -/
def execSlotBegin (t : Index) (s : State) : Host.Outcome State Fault Refusal := .next (s.slotBegins t)

end Sys2Proof.Machine
end

