-- ==== Sys2Proof/Machine/Requests.lean ====
section
/-! DEFINITION. The meanings of the request commands: each is the arrival of the request's frame on its link (log entry 1). -/

namespace Sys2Proof.Machine

/-- OPEN (R114). -/
def execOpen (l : Index) (tag role lease : Byte) (s : State) : Host.Outcome State Fault Refusal :=
  .next (s.requestArrives l tag (.openSession role lease))

/-- CLOSE (R119). -/
def execClose (l : Index) (tag : Byte) (s : State) : Host.Outcome State Fault Refusal :=
  .next (s.requestArrives l tag .close)

/-- PING (R120). -/
def execPing (l : Index) (tag : Byte) (s : State) : Host.Outcome State Fault Refusal :=
  .next (s.requestArrives l tag .ping)

/-- HALT (R10). -/
def execHalt (l : Index) (tag target : Byte) (s : State) : Host.Outcome State Fault Refusal :=
  .next (s.requestArrives l tag (.halt target true))

/-- RESUME (R13). -/
def execResume (l : Index) (tag target : Byte) (s : State) : Host.Outcome State Fault Refusal :=
  .next (s.requestArrives l tag (.resume target true))

/-- STEP (R28). -/
def execStep (l : Index) (tag target count : Byte) (s : State) : Host.Outcome State Fault Refusal :=
  .next (s.requestArrives l tag (.step target count))

/-- STATUS (R24). -/
def execStatus (l : Index) (tag target : Byte) (s : State) : Host.Outcome State Fault Refusal :=
  .next (s.requestArrives l tag (.status target))

/-- LOCK (R99). -/
def execLock (l : Index) (tag target : Byte) (s : State) : Host.Outcome State Fault Refusal :=
  .next (s.requestArrives l tag (.lock target))

/-- UNLOCK (R100). -/
def execUnlock (l : Index) (tag target : Byte) (s : State) : Host.Outcome State Fault Refusal :=
  .next (s.requestArrives l tag (.unlock target))

/-- FREL (R105). -/
def execFrel (l : Index) (tag target : Byte) (s : State) : Host.Outcome State Fault Refusal :=
  .next (s.requestArrives l tag (.frel target))

/-- SETBRK, match form (R47). -/
def execSetbrk (l : Index) (tag target mode : Byte) (address mask : Addr) (passes : Half) (s : State) :
    Host.Outcome State Fault Refusal :=
  .next (s.requestArrives l tag (.setbrk target mode address mask passes))

/-- SETBRK, data form (R151). -/
def execSetbrkDataForm (l : Index) (tag : Byte) (value mask : Word) (s : State) : Host.Outcome State Fault Refusal :=
  .next (s.requestArrives l tag (.setbrkData value mask))

/-- CLRBRK (R63). -/
def execClrbrk (l : Index) (tag handle : Byte) (s : State) : Host.Outcome State Fault Refusal :=
  .next (s.requestArrives l tag (.clrbrk handle))

/-- QBRK (R65). -/
def execQbrk (l : Index) (tag handle part : Byte) (s : State) : Host.Outcome State Fault Refusal :=
  .next (s.requestArrives l tag (.qbrk handle part))

/-- READ (R71). -/
def execRead (l : Index) (tag target space : Byte) (location : Addr) (s : State) : Host.Outcome State Fault Refusal :=
  .next (s.requestArrives l tag (.read target space location))

/-- WRITE (R71). -/
def execWrite (l : Index) (tag target space : Byte) (location : Addr) (data : Word) (s : State) :
    Host.Outcome State Fault Refusal :=
  .next (s.requestArrives l tag (.write target space location data))

/-- ACK (R138). -/
def execAck (l : Index) (tag seq : Byte) (s : State) : Host.Outcome State Fault Refusal :=
  .next (s.requestArrives l tag (.ack seq))

/-- REPLAY (R140). -/
def execReplay (l : Index) (tag : Byte) (s : State) : Host.Outcome State Fault Refusal :=
  .next (s.requestArrives l tag .replay)

/-- WATCH (R142). -/
def execWatch (l : Index) (tag mask : Byte) (s : State) : Host.Outcome State Fault Refusal :=
  .next (s.requestArrives l tag (.watch mask))

/-- CONFIG, read form (R185). -/
def execConfigRead (l : Index) (tag target item : Byte) (s : State) : Host.Outcome State Fault Refusal :=
  .next (s.requestArrives l tag (.configRead target item))

/-- CONFIG, setting form (R186). -/
def execConfigSet (l : Index) (tag target item value : Byte) (s : State) : Host.Outcome State Fault Refusal :=
  .next (s.requestArrives l tag (.configSet target item value))

/-- TRESET (R188). -/
def execTreset (l : Index) (tag target : Byte) (s : State) : Host.Outcome State Fault Refusal :=
  .next (s.requestArrives l tag (.treset target))

end Sys2Proof.Machine
end

