-- ==== Sys2Proof/Machine/Dispatch.lean ====
section
/-! DEFINITION. The meaning of every command: one arm per constructor of Instr. -/

namespace Sys2Proof.Machine

def exec (i : Instr) (s : State) : Host.Outcome State Fault Refusal :=
  match i with
  | .openSession l tag role lease => Sys2Proof.Machine.execOpen l tag role lease s
  | .close l tag => Sys2Proof.Machine.execClose l tag s
  | .ping l tag => Sys2Proof.Machine.execPing l tag s
  | .halt l tag target => Sys2Proof.Machine.execHalt l tag target s
  | .resume l tag target => Sys2Proof.Machine.execResume l tag target s
  | .step l tag target count => Sys2Proof.Machine.execStep l tag target count s
  | .status l tag target => Sys2Proof.Machine.execStatus l tag target s
  | .lock l tag target => Sys2Proof.Machine.execLock l tag target s
  | .unlock l tag target => Sys2Proof.Machine.execUnlock l tag target s
  | .frel l tag target => Sys2Proof.Machine.execFrel l tag target s
  | .setbrk l tag target mode address mask passes => Sys2Proof.Machine.execSetbrk l tag target mode address mask passes s
  | .setbrkDataForm l tag value mask => Sys2Proof.Machine.execSetbrkDataForm l tag value mask s
  | .clrbrk l tag handle => Sys2Proof.Machine.execClrbrk l tag handle s
  | .qbrk l tag handle part => Sys2Proof.Machine.execQbrk l tag handle part s
  | .read l tag target space location => Sys2Proof.Machine.execRead l tag target space location s
  | .write l tag target space location data => Sys2Proof.Machine.execWrite l tag target space location data s
  | .ack l tag seq => Sys2Proof.Machine.execAck l tag seq s
  | .replay l tag => Sys2Proof.Machine.execReplay l tag s
  | .watch l tag mask => Sys2Proof.Machine.execWatch l tag mask s
  | .configRead l tag target item => Sys2Proof.Machine.execConfigRead l tag target item s
  | .configSet l tag target item value => Sys2Proof.Machine.execConfigSet l tag target item value s
  | .treset l tag target => Sys2Proof.Machine.execTreset l tag target s
  | .receivedByte l b => Sys2Proof.Machine.execReceivedByte l b s
  | .interByteGapExpiry l => Sys2Proof.Machine.execInterByteGapExpiry l s
  | .huntIdleExpiry l => Sys2Proof.Machine.execHuntIdleExpiry l s
  | .linkBreak l => Sys2Proof.Machine.execLinkBreak l s
  | .frameSent l => Sys2Proof.Machine.execFrameSent l s
  | .leaseExpiry l => Sys2Proof.Machine.execLeaseExpiry l s
  | .hubReset straps => Sys2Proof.Machine.execHubReset straps s
  | .presentRise t => Sys2Proof.Machine.execPresentRise t s
  | .presentFall t => Sys2Proof.Machine.execPresentFall t s
  | .haltedReport t flags pc check => Sys2Proof.Machine.execHaltedReport t flags pc check s
  | .runningReport t check => Sys2Proof.Machine.execRunningReport t check s
  | .svcGrant t check => Sys2Proof.Machine.execSvcGrant t check s
  | .accReply t number result data check => Sys2Proof.Machine.execAccReply t number result data check s
  | .ref t kind address data check => Sys2Proof.Machine.execRef t kind address data check s
  | .stopTimerExpiry t => Sys2Proof.Machine.execStopTimerExpiry t s
  | .runTimerExpiry t => Sys2Proof.Machine.execRunTimerExpiry t s
  | .grantTimerExpiry t => Sys2Proof.Machine.execGrantTimerExpiry t s
  | .exchangeTimerExpiry t => Sys2Proof.Machine.execExchangeTimerExpiry t s
  | .resetHoldExpiry t => Sys2Proof.Machine.execResetHoldExpiry t s
  | .slotBegin t => Sys2Proof.Machine.execSlotBegin t s

end Sys2Proof.Machine
end

