-- ==== Sys2Proof/Machine/Step.lean ====
section
/-! DEFINITION. One step of the hub: the command at the front of the queue, run on the rest of it. -/

namespace Sys2Proof.Machine

/-- The links whose Link Unit has routed a request that its owner has not yet taken. -/
def State.waitingLinks (s : State) : List Index := indices.filter fun l => (s.link l).routed.isSome

/-- The command at the front of the queue runs on the state with the queue's rest. With no command waiting, the owner of the request
that waits on the lowest-numbered link takes it (R124, R160), or else the hub idles (log entry 2). -/
def step (s : State) : Host.Outcome State Fault Refusal :=
  match s.pending with
  | c :: rest => exec c { s with pending := rest }
  | [] =>
    match s.waitingLinks with
    | l :: _ => .next (s.takeRouted l)
    | [] => .next s

/-- `s` with the command that a word spells at the front of its queue; `s` unchanged where the word spells none. -/
def State.withFetchWord (s : State) (nbits w : Nat) : State :=
  match decodeTableWord nbits w with
  | some c => { s with pending := c :: s.pending }
  | none => s

end Sys2Proof.Machine
end

