-- ==== Sys2Proof/WellFormed.lean ====
section
/-! DEFINITION. Which commands are well formed: a target-to-hub message is so when it passes the verification of R170.
Every other command's fields are bits that the hub itself judges (a refused request is a well-formed frame, R157). -/

namespace Sys2Proof

/-- A command is well formed unless it brings a port message that R170 discards. -/
def Instr.wellFormed (i : Instr) : Bool :=
  match i.inMsg? with
  | some m => m.wellFormed
  | none => true

end Sys2Proof
end

