-- ==== Sys2Proof/Safety.lean ====
section
/-! DEFINITION. The vocabulary of statements about the hub: when a command completes, what a state is without its outgoing queues,
what a session hears and what a link is answered, and the entries to HALTED and RUNNING in closed form. -/

namespace Sys2Proof.Machine

/-- The command answers a next state, and that state satisfies `P`. -/
def completes (c : Instr) (s : State) (P : State → Prop) : Prop := ∃ s', exec c s = .next s' ∧ P s'

/-- A Link Unit without its response queue and transmitter. -/
def LinkUnit.mute (u : LinkUnit) : LinkUnit := { u with respQ := [], tx := .free }

/-- What a Notice Queue holds, the marks of its entries (sent, keeping its count) apart. -/
def NoticeQueue.contents (q : NoticeQueue) : List (Byte × NoticeBody) × Byte :=
  (q.entries.map fun e => (e.seq, e.body), q.nextSeq)

/-- A deferred response and the session it is for. -/
abbrev Answer := Index × Response

namespace State

/-! ### What stays outside the outgoing queues -/

/-- The state without response queues, transmitters and notice queues: `s'.mute = (…).mute` says what every other part of `s'` is. -/
def mute (s : State) : State := { s with links := s.links.map LinkUnit.mute, notices := .all .reset }

/-! ### Requests -/

/-- The receiver of Ll is in IDLE, no routed request waits on it, and the schedule has the next request taken at once. -/
def requestReady (s : State) (l : Index) : Bool :=
  (s.link l).rx == .idle && (s.link l).routed.isNone && s.sched.delays.head? != some true

/-- The session on Ll is open and `tag` is not outstanding in it (checks 2 and 3 of R158). -/
def requestOpen (s : State) (l : Index) (tag : Byte) : Bool := s.requestReady l && s.isOpen l && !(s.tags l).contains tag

/-- `s` after a good frame has arrived on Ll and before it is checked (R157). -/
def afterFrame (l : Index) (s : State) : State :=
  (s.modLink l fun u => { u with badFrames := 0, gapTimer := none }).restartLease l

/-- The same, the model's schedule having been read for one delivery. -/
def afterDelivery (l : Index) (s : State) : State :=
  { s.afterFrame l with sched := { s.sched with delays := s.sched.delays.tail } }

/-! ### What is heard -/

/-- The notices `bs` were handed to the queue of Sn, in this order and no others, each taken by R130. -/
def heard (s s' : State) (n : Index) (bs : List NoticeBody) : Prop :=
  (s'.notice n).contents = (bs.foldl NoticeQueue.take (s.notice n)).contents

/-- The notices `bs` were handed to the queue of every session that watches `t`, and none to another. -/
def tells (s s' : State) (t : Index) (bs : List NoticeBody) : Prop :=
  ∀ n, s.heard s' n (if s.watches n t then bs else [])

/-- The same, the session `l` apart. -/
def tellsOthers (s s' : State) (l t : Index) (bs : List NoticeBody) : Prop :=
  ∀ n, n ≠ l → s.heard s' n (if s.watches n t then bs else [])

/-- Nothing reaches any session but Sl: their links and notice queues are as before. -/
def othersSilent (s s' : State) (l : Index) : Prop := ∀ n, n ≠ l → s'.link n = s.link n ∧ s'.notice n = s.notice n

/-- Nothing reaches any session: links and notice queues are as before. -/
def allSilent (s s' : State) : Prop := s'.links = s.links ∧ s'.notices = s.notices

/-- The entries of Sn became `es`, with `next` the next sequence number, and were offered: with the transmitter of Ln free, its oldest
response is begun, or else the oldest unsent entry, whose sent flag is then set; otherwise no entry and no transmitter changes (R136, R166). -/
def becomes (s s' : State) (n : Index) (es : List NoticeEntry) (next : Byte) : Prop :=
  (s'.notice n).nextSeq = next ∧
  ((s.link n).tx ≠ .free → (s'.notice n).entries = es ∧ (s'.link n).tx = (s.link n).tx) ∧
  ((s.link n).tx = .free → ∀ x ∈ (s.link n).respQ.head?, (s'.notice n).entries = es ∧ (s'.link n).tx = .response x.resp.frame) ∧
  ((s.link n).tx = .free → (s.link n).respQ = [] →
    (∀ x ∈ es.find? (fun x => !x.sent),
      (s'.notice n).entries = es.replace x { x with sent := true } ∧ (s'.link n).tx = .notice x.frame) ∧
    ((∀ x ∈ es, x.sent) → (s'.notice n).entries = es ∧ (s'.link n).tx = .free))

/-! ### What is answered -/

/-- The deferred responses of `rs` to open sessions were placed, in this order, each in the queue of its session's link, and no other
response was. -/
def answered (s s' : State) (rs : List Answer) : Prop :=
  ∀ n, (s'.link n).respQ =
    (s.link n).respQ ++ (rs.filter fun x => x.1 == n && s.isOpen n).map fun x => { owner := .session, resp := x.2 }

/-- The tags of `rs` leave the windows of their sessions (R121). -/
def leaves (rs : List Answer) (s : State) : State := rs.foldl (fun s' x => s'.leaveWindow x.1 x.2.tag) s

/-- An immediate response on Ll, after the deferred responses `ds` to the same session and the notices `bs` to it: placed when 5 places
are free, otherwise discarded, which an open session hears as a link fault (R163). -/
def repliedAfter (s s' : State) (l : Index) (o : RespOwner) (ds : List Response) (r : Response) (bs : List NoticeBody) : Prop :=
  let q := (s.link l).respQ ++ ds.map fun d => { owner := .session, resp := d }
  if q.length + Config.immediateNeeds ≤ Config.respPlaces then
    (s'.link l).respQ = q ++ [{ owner := o, resp := r }] ∧ s.heard s' l bs
  else (s'.link l).respQ = q ∧ s.heard s' l (bs ++ if o = .session then [.linkFault 1] else [])

/-- An immediate response to an open session on Ll. -/
def replied (s s' : State) (l : Index) (r : Response) (bs : List NoticeBody) : Prop := s.repliedAfter s' l .session [] r bs

/-- No response on Ll, whose session heard exactly `bs`. -/
def unanswered (s s' : State) (l : Index) (bs : List NoticeBody) : Prop :=
  (s'.link l).respQ = (s.link l).respQ ∧ s.heard s' l bs

/-- The response queues of the other links are as before. -/
def othersUnanswered (s s' : State) (l : Index) : Prop := ∀ n, n ≠ l → (s'.link n).respQ = (s.link n).respQ

/-! ### Waiters -/

/-- The deferred response to a waiter: a RESUME answered OK carries the still-held flag and the hold set (R5, R13). -/
def waiterAnswer (st : Status) (hold : HoldSet) (w : Waiter) : Answer :=
  (w.session,
    { tag := w.tag, status := st, kind := w.kind.code,
      payload := if w.kind = .resume ∧ st = .ok then [flagByte (!hold.isEmpty), hold.byte] else [] })

/-- The answers to every waiter. -/
def allAnswers (r : RunControl) (st : Status) : List Answer := r.waiters.map (waiterAnswer st r.hold)

/-- The answers to the waiters of one kind. -/
def kindAnswers (r : RunControl) (k : WaitKind) (hold : HoldSet) : List Answer :=
  (r.waiters.filter fun w => w.kind == k).map (waiterAnswer .ok hold)

/-! ### Entering HALTED and leaving it, in closed form (R3, R5, R7, R14, R15) -/

/-- The responses of an entry to HALTED with hold set `hold`: every HALT waiter, and every RESUME waiter unless the release is made. -/
def haltAnswers (r : RunControl) (hold : HoldSet) : List Answer :=
  if hold.isEmpty then kindAnswers r .halt hold else r.waiters.map (waiterAnswer .ok hold)

/-- The notices of an entry to HALTED: HALTED, and RELEASING where nobody holds the target and no access is in flight. -/
def haltNotices (t : Index) (r : RunControl) (a : AccessEngine) (hold : HoldSet) (c : HaltCause) (pc : Addr) : List NoticeBody :=
  .state t .halted hold r.lock (some (some c, pc)) ::
    if hold.isEmpty && !a.inFlight then [.state t .releasing hold r.lock none] else []

/-- The Run Control Unit after an entry to HALTED. -/
def haltedRc (a : AccessEngine) (hold : HoldSet) (c : HaltCause) (pc : Addr) (r : RunControl) : RunControl :=
  { r with
    run := if hold.isEmpty && !a.inFlight then .releasing else .halted
    hold, haltCause := some c, stopCause := none, lastPc := pc
    waiters := if hold.isEmpty then r.waiters.filter fun w => w.kind != .halt else []
    relDefer := if hold.isEmpty then a.inFlight else r.relDefer }

/-- The state after an entry to HALTED from `s`, its outgoing queues apart: RUN is handed where the release is made. -/
def haltedEntry (t : Index) (hold : HoldSet) (c : HaltCause) (pc : Addr) (s : State) : State :=
  let s1 := (s.leaves (haltAnswers (s.rc t) hold)).modRc t (haltedRc (s.acc t) hold c pc)
  if hold.isEmpty && !(s.acc t).inFlight then s1.handRc t .run else s1

/-! ### Entering RUNNING, or stopping a target found running, in closed form (R6, R16, R17, R22) -/

/-- The Run Control Unit after RUNNING is entered, with nobody holding the target. -/
def runningRc (r : RunControl) : RunControl :=
  { r with run := .running, stopCause := none, relDefer := false, waiters := r.waiters.filter fun w => w.kind != .resume }

/-- The Run Control Unit after the target is stopped (R6, R4). -/
def stoppingRc (r : RunControl) : RunControl :=
  { r with run := .stopping, stopCause := some (r.stopCause.getD r.hold.stopCause), relDefer := false }

/-- The responses when a target is found running: the RESUME waiters where nobody holds it. -/
def runAnswers (r : RunControl) : List Answer := if r.hold.isEmpty then kindAnswers r .resume r.hold else []

/-- The run state that a target found running enters. -/
def runEntered (r : RunControl) : RunState := if r.hold.isEmpty then .running else .stopping

/-- The notice of that entry. -/
def runNotices (t : Index) (r : RunControl) : List NoticeBody := [.state t (runEntered r) r.hold r.lock none]

/-- The state after a target is found running, its outgoing queues apart: STOP is handed where somebody holds it. -/
def runEntry (t : Index) (s : State) : State :=
  if (s.rc t).hold.isEmpty then (s.leaves (runAnswers (s.rc t))).modRc t runningRc
  else (s.modRc t stoppingRc).handRc t .stop

/-! ### UNRESPONSIVE, in closed form (R19) -/

/-- The response to a STEP (Table 8-7), as an answer to its session; none when its discard field is set. -/
def seqAnswer (r : RunControl) (q : StepSeq) (st : Status) : List Answer :=
  if q.discard then []
  else [(q.session, { tag := q.tag, status := st, kind := 0x12, payload := byteOf q.done :: bytes24 r.lastPc })]

/-- The response to a TRESET; none when its discard mark is set. -/
def resetAnswer (q : ResetRec) (st : Status) (payload : List Byte) : List Answer :=
  if q.discard then [] else [(q.session, { tag := q.tag, status := st, kind := 0x51, payload })]

/-- The responses when a Run Control Unit gives up its work: TRESET, then the waiters, then the step sequence. -/
def allWorkAnswers (r : RunControl) (st seqSt : Status) : List Answer :=
  ((r.resetRec.map fun q => resetAnswer q st []).getD []) ++ allAnswers r st ++
    (r.stepSeq.map fun q => seqAnswer r q seqSt).getD []

/-- The state after UNRESPONSIVE is entered, its outgoing queues apart. -/
def unresponsiveEntry (t : Index) (s : State) : State :=
  (s.leaves (allWorkAnswers (s.rc t) .unresponsive .timeout)).modRc t fun r =>
    { r with
      run := .unresponsive, waiters := [], relDefer := false, stepSeq := none, resetRec := none
      resetTimer := if r.resetRec.isSome then none else r.resetTimer }

/-! ### HALT and RESUME, in closed form (Tables 1-3 and 1-4) -/

/-- A HALT is answered at once in these run states, and deferred in every other (R9). -/
def haltAtOnce : RunState → Bool
  | .halted => true
  | .detached => true
  | .unresponsive => true
  | _ => false

/-- The run states in which a HALT sets the stop cause (R4, R10). -/
def haltNamesStop : RunState → Bool
  | .running => true
  | .stopping => true
  | .releasing => true
  | .svcPending => true
  | .service => true
  | _ => false

/-- The run state after an accepted HALT (Table 1-3). -/
def haltRun (r : RunControl) (a : AccessEngine) : RunState :=
  match r.run with
  | .running => .stopping
  | .svcPending => .stopping
  | .service => if a.inFlight then .service else .stopping
  | x => x

/-- The Run Control Unit after an accepted HALT of Sl with `tag` (R4, R9, R10, R33). -/
def haltRc (l : Index) (tag : Byte) (a : AccessEngine) (r : RunControl) : RunControl :=
  { r with
    run := haltRun r a
    hold := r.hold.add l
    stopCause := if haltNamesStop r.run then some (r.stopCause.getD (.requested l)) else r.stopCause
    waiters := if haltAtOnce r.run then r.waiters else r.waiters ++ [{ session := l, tag, kind := .halt }]
    relDefer := if r.run = .running ∨ r.run = .svcPending then false else r.relDefer
    stepSeq := if r.run = .stepping then r.stepSeq.map fun q => { q with interrupted := true } else r.stepSeq }

/-- The messages of an accepted HALT (Table 1-3, R12). -/
def haltMessages (t : Index) (r : RunControl) (a : AccessEngine) (s : State) : State :=
  match r.run with
  | .running => s.handRc t .stop
  | .svcPending => (s.cancelService t).handRc t .stop
  | .service => if a.inFlight then s else s.handRc t .svcExitHold
  | _ => s

/-- The state after an accepted HALT, its outgoing queues apart. -/
def haltEffect (l : Index) (tag : Byte) (t : Index) (s : State) : State :=
  let s1 := if haltAtOnce (s.rc t).run then s else s.joinWindow l tag
  haltMessages t (s.rc t) (s.acc t) (s1.modRc t (haltRc l tag (s.acc t)))

/-- The hold set after an accepted RESUME of Sl (R13). -/
def resumeHold (l : Index) (r : RunControl) : HoldSet := (r.hold.remove l).removeSelf

/-- The RESUME is deferred (R13). -/
def resumeLater (l : Index) (r : RunControl) : Bool :=
  (resumeHold l r).isEmpty &&
    match r.run with
    | .halted => true
    | .stopping => true
    | .releasing => true
    | .stepping => true
    | _ => false

/-- The requester's HALT waiters are answered ABORTED (R13). -/
def resumeAborts (l : Index) (r : RunControl) : List Answer :=
  (r.waiters.filter fun w => w.kind == .halt && w.session == l).map (waiterAnswer .aborted r.hold)

/-- The RESUME releases the target at once: HALTED, nobody left, no access in flight (R7). -/
def resumeReleases (l : Index) (r : RunControl) (a : AccessEngine) : Bool :=
  r.run == .halted && (resumeHold l r).isEmpty && !a.inFlight

/-- The Run Control Unit after an accepted RESUME of Sl with `tag` (R7, R13, R34). -/
def resumeRc (l : Index) (tag : Byte) (a : AccessEngine) (r : RunControl) : RunControl :=
  { r with
    run := if resumeReleases l r a then .releasing else r.run
    hold := resumeHold l r
    waiters := (r.waiters.filter fun w => !(w.kind == .halt && w.session == l)) ++
      if resumeLater l r then [{ session := l, tag, kind := .resume }] else []
    relDefer := if r.run = .halted ∧ (resumeHold l r).isEmpty then a.inFlight else r.relDefer
    stepSeq := r.stepSeq.map fun q => if q.session = l ∧ r.hold.has l then { q with aborted := true } else q }

/-- The state after an accepted RESUME, its outgoing queues apart. -/
def resumeEffect (l : Index) (tag : Byte) (t : Index) (s : State) : State :=
  let r := s.rc t
  let s1 := s.leaves (resumeAborts l r)
  let s2 := (if resumeLater l r then s1.joinWindow l tag else s1).modRc t (resumeRc l tag (s.acc t))
  if resumeReleases l r (s.acc t) then s2.handRc t .run else s2

/-- The status of a RESUME answered at once (Table 1-4). -/
def resumeStatus : RunState → Status
  | .detached => .detached
  | .unresponsive => .unresponsive
  | _ => .ok

/-- The notices of an accepted RESUME: a release, or a hold set change that leaves HALTED (R8). -/
def resumeNotices (l t : Index) (r : RunControl) (a : AccessEngine) : List NoticeBody :=
  if r.run = .halted then
    [if resumeReleases l r a then .state t .releasing (resumeHold l r) r.lock none
     else .state t .halted (resumeHold l r) r.lock (some (r.haltCause, r.lastPc))]
  else []

/-! ### Breakpoints, in closed form (chapter 3) -/

/-- A change of the watch demand of `t` to the value it now has is sent, outside DETACHED and RESETTING (R45, R46). -/
def watchSent (t : Index) (s : State) : State :=
  if (s.rc t).run = .detached ∨ (s.rc t).run = .resetting then s
  else s.modPort t fun p => { p with sendList := p.sendList ++ [.watch (s.demand t)], watchEnable := s.demand t }

/-- The action of a record's fire is suppressed (R58). -/
def lockedOut (x : Record) (s : State) : Bool :=
  x.action != .notify && match (s.rc x.target).lock with | some o => o != x.owner | none => false

/-- The Run Control Unit after an unsuppressed HALT-action fire of Sn's record `h` (R11, R33, R59). -/
def fireRc (n : Index) (h : Handle) (a : AccessEngine) (r : RunControl) : RunControl :=
  { r with
    run := haltRun r a
    hold := r.hold.add n
    stopCause := if haltNamesStop r.run then some (r.stopCause.getD (.brk h)) else r.stopCause
    relDefer := if r.run = .running ∨ r.run = .svcPending then false else r.relDefer
    stepSeq :=
      if r.run = .stepping then r.stepSeq.map fun q => { q with interrupted := true, brk := some (q.brk.getD h) }
      else r.stepSeq }

/-- The BREAK notice of a fire (R57): the hit count is that after the fire. -/
def breakNotice (r : RefReport) (x : Record) (s : State) : NoticeBody :=
  .brk x.handle x.target r.kind r.address r.data (if x.hits = 0xFFFF then 0xFFFF else x.hits + 1) (lockedOut x s)
    (x.persistence == .oneShot)

/-- The state after a fire, its outgoing queues apart: hit count, action, persistence (R56). -/
def fireEffect (x : Record) (s : State) : State :=
  let t := x.target
  let s1 := s.modRecord x.handle fun y => { y with hits := if x.hits = 0xFFFF then 0xFFFF else x.hits + 1 }
  let s2 :=
    if lockedOut x s then s1
    else
      match x.action with
      | .halt => haltMessages t (s.rc t) (s.acc t) (s1.modRc t (fireRc x.owner x.handle (s.acc t)))
      | .interrupt => s1.hand t (.attn x.handle)
      | .notify => s1
  match x.persistence with
  | .persistent => s2.modRecord x.handle fun y => { y with remaining := y.passes }
  | .oneShot => s2.dropRecord x.handle

/-- The STATE notice that the action of a fire gives, if it changes the run state. -/
def fireNotices (x : Record) (s : State) : List NoticeBody :=
  let r := s.rc x.target
  let entered := haltRun r (s.acc x.target)
  if x.action = .halt ∧ lockedOut x s = false ∧ entered ≠ r.run then [.state x.target entered (r.hold.add x.owner) r.lock none] else []

/-- The run states in which a reference report is matched (Table 3-3). -/
def refsMatched (r : RunControl) : Bool :=
  match r.run with
  | .running => true
  | .stopping => true
  | .releasing => true
  | .svcPending => true
  | .stepping => match r.stepSeq with | some q => q.outstanding | none => false
  | _ => false

/-! ### Accesses, in closed form (chapter 4) -/

/-- The response of an access (Table 4-4); none when its discard field is set. -/
def accessAnswer (e : AccEntry) (st : Status) (payload : List Byte) : List Answer :=
  if e.discard then []
  else [(e.session,
    { tag := e.tag, status := st, kind := if e.isWrite then 0x31 else 0x30
      payload := if e.isWrite ∧ st ≠ .ok then [flagByte e.written] else payload })]

/-- The state after the IN_FLIGHT access has ended, its outgoing queues apart (R79). -/
def accessEnded (t : Index) (e : AccEntry) (st : Status) (payload : List Byte) (s : State) : State :=
  (s.leaves (accessAnswer e st payload)).modAcc t fun a =>
    { queue := a.queue.tail, exchange := none, batch := if (s.rc t).run = .service then a.batch + 1 else a.batch }

/-- An ACC handed for entry `e`, which heads the queue IN_FLIGHT: it takes the next exchange number, and its exchange timer starts with
the value configured (R70, R179). -/
def accHanded (t : Index) (e : AccEntry) (op : AccOp) (ph : Phase) (s : State) : State :=
  let n := (s.port t).nextEx
  (s.modAcc t fun a =>
    { a with
      queue := { e with inFlight := true } :: a.queue.tail
      exchange := some { number := n, phase := ph, timer := (s.cfg t).exchange.toNat } }).modPort t
    fun p => { p with nextEx := n + 1, sendList := p.sendList ++ [.acc n op e.space e.location] }

/-- The first phase of an access (R76, R77). -/
def firstPhase (e : AccEntry) : Phase := if e.isWrite then .write else .read

/-- Table 4-3 for the head entry `e`, SERVICE apart: the status it fails with, where it fails. -/
def headFails (r : RunControl) (intrusive : Bool) (e : AccEntry) : Option Status :=
  let locked := e.isWrite && match r.lock with | some o => o != e.session | none => false
  match r.run with
  | .halted => if locked then some .locked else if e.isWrite && !r.hold.members.get e.session then some .notHeld else none
  | .running => if locked then some .locked else if intrusive then none else some .notHalted
  | .detached => some .detached
  | .unresponsive => some .unresponsive
  | _ => none

/-! ### Detach, in closed form (R23, R94) -/

/-- The responses of a detach, in the order of log entry 13: TRESET, waiters and step sequence, then the accesses in queue order. -/
def detachAnswers (s : State) (t : Index) : List Answer :=
  allWorkAnswers (s.rc t) .detached .detached ++ ((s.acc t).queue.map fun e => accessAnswer e .detached []).flatten

/-- The state after the detach of an ACTIVE target, its outgoing queues apart: the port is left in link state `x` with nothing outstanding
and nothing to send, every work on the target is gone, and hold set, lock, halt cause and last pc are kept. -/
def detachedEntry (t : Index) (x : LinkState) (s : State) : State :=
  (((s.modPort t fun p => { p with outstanding := none, sendList := [], link := x }).leaves (s.detachAnswers t)).modRc t fun r =>
    { r with
      run := .detached, waiters := [], relDefer := false, stopCause := none, stepSeq := none, resetRec := none
      resetTimer := if r.resetRec.isSome then none else r.resetTimer }).modAcc t
    fun a => { a with queue := [], exchange := none }

/-! ### The end of a session (R123, Table 6-4) -/

/-- No claim of Sn is left in what the hub keeps for target `x`: hold set, lock, waiters, its step sequence and its target reset marked,
and of its access entries only one that is IN_FLIGHT, marked for discard. -/
def withdrawnFrom (n : Index) (x : Target) : Prop :=
  x.rc.hold.members.get n = false ∧ x.rc.lock ≠ some n ∧ (∀ w ∈ x.rc.waiters, w.session ≠ n) ∧
  (∀ q ∈ x.rc.stepSeq, q.session = n → q.aborted ∧ q.discard) ∧ (∀ q ∈ x.rc.resetRec, q.session = n → q.discard) ∧
  (∀ e ∈ x.acc.queue, e.session = n → e.inFlight ∧ e.discard)

/-- Sn has ended: its record is CLOSED, and nothing of it is left but what is marked for discard. -/
def ended (n : Index) (s : State) : Prop :=
  (s.session n).current = none ∧ (∀ t, withdrawnFrom n (s.target t)) ∧ (∀ x ∈ s.records, x.owner ≠ n) ∧
  (s.notice n).entries = [] ∧ (s.link n).pendingData = none

/-- What the end of Sn leaves as it was: the other sessions' records apart from answered tags, their breakpoint records, every target's
configuration, last pc and halt cause. -/
def keptByEnd (n : Index) (s s' : State) : Prop :=
  (∀ m, m ≠ n → (s'.session m).capable = (s.session m).capable ∧ s'.role? m = s.role? m ∧ (∀ t, s'.watches m t = s.watches m t)) ∧
  (s'.session n).capable = (s.session n).capable ∧ s'.records = s.records.filter (fun x => x.owner != n) ∧
  (∀ t, s'.cfg t = s.cfg t ∧ (s'.rc t).lastPc = (s.rc t).lastPc ∧ (s'.rc t).haltCause = (s.rc t).haltCause ∧
    (∀ m, m ≠ n → (s'.rc t).hold.members.get m = (s.rc t).hold.members.get m) ∧ (s'.rc t).hold.self = (s.rc t).hold.self ∧
    ((s.rc t).lock ≠ some n → (s'.rc t).lock = (s.rc t).lock))

/-- The state in which the blocks take the announcement of the end of Sn: its record is CLOSED, and the model's schedule has been read
for one order (log entry 3). -/
def closedFor (n : Index) (s : State) : State :=
  { s.modSession n (fun x => { x with current := none }) with sched := { s.sched with endOrders := s.sched.endOrders.tail } }

/-- The order names every block that takes the announcement, each once. -/
def everyBlockOnce (order : List EndBlock) : Prop := order.Nodup ∧ ∀ b, b ∈ order

/-- The responses of an open session belong to one that has ended. -/
def relabelled (q : List RespEntry) : List RespEntry :=
  q.map fun e => if e.owner = .session then { e with owner := .ended } else e

/-! ### Invariants -/

/-- Every Notice Queue holds at most 16 entries with consecutive numbers, the newest just below the next; OVERRUN stands last and only
there, a queue of 16 ends in it, and a CLOSED session's queue is empty (R128, R129, R130, R144). -/
def noticesKept (s : State) : Prop :=
  ∀ n,
    let q := s.notice n
    q.entries.length ≤ 16 ∧ (s.isOpen n = false → q.entries = []) ∧
    (∀ (i : Nat) (h : i < q.entries.length),
      (q.entries[i]'h).seq = q.nextSeq - BitVec.ofNat 8 (q.entries.length - i) ∧
      ((q.entries[i]'h).body = .overrun → i + 1 = q.entries.length)) ∧
    (q.entries.length = 16 → ∃ e, q.entries.getLast? = some e ∧ e.body = .overrun)

/-- The run-control message outstanding on a port is the one that the run state gives (Table 1-2, R174). -/
def outstandingFits (x : Target) : Prop :=
  let m := x.port.outstanding.map (·.msg)
  match x.rc.run with
  | .detached => m = if x.port.link = .probing then some .probe else none
  | .running => m = none
  | .stopping => m = some .stop ∨ m = some .svcExitHold
  | .halted => m = none
  | .releasing => m = some .run
  | .stepping => m = if (x.rc.stepSeq.map (·.outstanding)).getD false then some .step else none
  | .svcPending => m = some .svcReq
  | .service => m = none
  | .unresponsive => m = none
  | .resetting => m = match x.rc.resetRec.map (·.phase) with
    | some (.released f) => some (.rstOff f)
    | _ => none

/-- What a Run Control Unit, its port and its Access Engine agree on: the link state follows PRESENT and PORT_ENABLE (R172), DETACHED is
every link state but ACTIVE (R172), the step sequence and reset records are present exactly in STEPPING and RESETTING (R27, R187), the
outstanding message is that of the run state (R174), nobody holds a RUNNING target (R2), a release is deferred only in HALTED (R7), and
the access queue, its exchange and its batch count are within their bounds (R69, R70, R86). -/
def coherent (x : Target) : Prop :=
  (x.port.link = .disabled ↔ x.cfg.portEnable = false) ∧
  (x.port.link = .absent → x.port.present = false) ∧
  (x.port.link = .probing ∨ x.port.link = .active → x.port.present = true) ∧
  (x.rc.run = .detached ↔ x.port.link ≠ .active) ∧
  (x.rc.stepSeq.isSome ↔ x.rc.run = .stepping) ∧
  (x.rc.resetRec.isSome ↔ x.rc.run = .resetting) ∧
  (x.rc.resetTimer.isSome ↔ x.rc.resetRec.map (·.phase) = some .holding) ∧
  outstandingFits x ∧
  (x.rc.run = .running ∨ x.rc.run = .svcPending → x.rc.hold.isEmpty) ∧
  (x.rc.relDefer → x.rc.run = .halted) ∧
  (x.rc.run = .halted → x.rc.hold.isEmpty → x.rc.relDefer) ∧
  x.acc.queue.length ≤ 8 ∧
  (x.acc.exchange.isSome ↔ x.acc.inFlight) ∧
  (∀ e ∈ x.acc.queue.tail, e.inFlight = false) ∧
  (x.rc.run = .svcPending → ¬ x.acc.inFlight) ∧
  (x.rc.run = .service → x.acc.inFlight ∧ x.acc.batch < 4) ∧
  x.acc.batch ≤ 4

/-- Every target is coherent. -/
def targetsCoherent (s : State) : Prop := ∀ t, coherent (s.target t)

/-- Records stand in handle order with distinct handles and remaining at most passes; a subscriber list holds exactly the handles of the
records bound to its comparator, each once, under their specification; a data condition is bound to C2 or C3; and no two comparators of
a bank share a specification (R39, R40, R42, R49, R50). -/
def banksKept (s : State) : Prop :=
  s.records.Pairwise (fun x y => x.handle < y.handle) ∧
  (∀ x ∈ s.records, x.remaining ≤ x.passes ∧ ((s.bank x.target).get x.comparator).spec = some x.spec ∧
    (x.cond.isSome → 2 ≤ x.comparator.val ∧ x.kind ≠ .fetch ∧ x.kind ≠ .any)) ∧
  (∀ t c,
    let y := (s.bank t).get c
    y.subs.Nodup ∧ (y.spec.isSome ↔ y.subs ≠ []) ∧
    (∀ h, h ∈ y.subs ↔ ∃ x ∈ s.records, x.handle = h ∧ x.target = t ∧ x.comparator = c) ∧
    (∀ d, d ≠ c → y.spec.isSome → y.spec ≠ ((s.bank t).get d).spec))

/-- The tags that the blocks still owe Sn an answer for. -/
def owed (s : State) (n : Index) : List Byte :=
  (indices.map fun t =>
    ((s.rc t).waiters.filter fun w => w.session == n).map (·.tag) ++
      (((s.rc t).stepSeq.toList.filter fun q => q.session == n && !q.discard).map (·.tag)) ++
      (((s.rc t).resetRec.toList.filter fun q => q.session == n && !q.discard).map (·.tag)) ++
      ((s.acc t).queue.filter fun e => e.session == n && !e.discard).map (·.tag)).flatten

/-- The outstanding tags of every session are those it is owed, at most 4 and all different, and its response queue keeps a place for each
(R121, R164); a routed request that waits for its owner still passes the checks it has passed. -/
def windowKept (s : State) : Prop :=
  ∀ n,
    (s.tags n).Perm (s.owed n) ∧ (s.tags n).Nodup ∧ s.outstanding n ≤ 4 ∧ (s.link n).respQ.length + s.outstanding n ≤ 8 ∧
    (∀ r ∈ (s.link n).routed,
      (r.inSession = false → r.request.kind = 0x01) ∧
      (s.isOpen n → ¬ r.tag ∈ s.tags n ∧ (r.request.kind ∈ Request.deferredKinds → s.windowOpen n)))

end State

end Sys2Proof.Machine
end

