-- ==== Sys2Proof/Certificates/Slice0/Obligations.lean ====
section
/-! DEFINITION. The statements about the hub for the provers, in the order of the manual's chapters. A statement of the form
`completes c s P` says that the command answers a next state satisfying `P`; `x.mute = y.mute` says that two states agree outside
response queues, transmitters and notice queues; `heard`, `tells`, `answered` and `replied` say what reaches those (Safety.lean). -/

open Sys2Proof Sys2Proof.Machine

/-! ### The queue of commands and of routed requests -/

/-- The command at the front of the queue runs on the state with the queue's rest. -/
def Obligations.StepRunsFront : Prop :=
  ∀ (c : Instr) (s : State) (rest : List Instr), s.pending = c :: rest → step s = exec c { s with pending := rest }

/-- With no command waiting and no routed request waiting the hub idles. Otherwise the owner of the request routed on the
lowest-numbered link takes it (the model's choice, log entry 2); one whose session has ended in between is dropped (R124). A frame
completed on a link has its routed request taken first (R160). -/
def Obligations.RoutedRequestTaken : Prop :=
  ∀ (s : State) (l : Index) (r : Routed) (n b : Byte) (body : List Byte),
    let cleared := s.modLink l fun u => { u with routed := none }
    let taken := if r.inSession ∧ ¬ s.isOpen l then cleared else cleared.ownerTake l r.tag r.request r.cond
    (s.pending = [] → (∀ m, (s.link m).routed = none) → step s = .next s) ∧
    (s.pending = [] → (s.link l).routed = some r → (∀ m, m < l → (s.link m).routed = none) → step s = .next taken) ∧
    ((s.link l).routed = some r → (s.link l).rx = .receiving (n :: body) → body.length = n.toNat →
      let idle := cleared.modLink l fun u => { u with rx := .idle, gapTimer := none }
      let u := if r.inSession ∧ ¬ s.isOpen l then idle else idle.ownerTake l r.tag r.request r.cond
      exec (.receivedByte l b) s = .next (if crc8 (n :: body) = b then u.goodFrame l body else u.discardFrame l))

/-! ### Run control (chapter 1) -/

/-- An accepted HALT joins the hold set and acts by Table 1-3 in every run state. Where the response is discarded, the LINK_FAULT
follows the other notices (log entry 8). -/
def Obligations.HaltActsByRunState : Prop :=
  ∀ (s : State) (l t : Index) (tag : Byte),
    s.requestOpen l tag → ¬ s.isObserver l → ¬ (s.rc t).lockedAgainst l →
    (State.haltAtOnce (s.rc t).run = false → s.windowOpen l) →
    completes (.halt l tag (indexByte t)) s fun s' =>
      let r := s.rc t
      let bs := if State.haltRun r (s.acc t) ≠ r.run ∨ r.run = .halted ∧ ¬ r.hold.has l then [s'.stateBody t] else []
      s'.mute = ((s.afterDelivery l).haltEffect l tag t).mute ∧ s.tellsOthers s' l t bs ∧ s.othersUnanswered s' l ∧
        if State.haltAtOnce r.run then
          s.replied s' l
            { tag, kind := 0x10, payload := []
              status := if r.run = .halted then .ok else if r.run = .detached then .detached else .unresponsive }
            (if s.watches l t then bs else [])
        else s.unanswered s' l (if s.watches l t then bs else [])

/-- An accepted RESUME that removes a member acts by Table 1-4 in every run state. Where the response is discarded, the LINK_FAULT
follows the other notices (log entry 8). -/
def Obligations.ResumeActsByRunState : Prop :=
  ∀ (s : State) (l t : Index) (tag : Byte),
    s.requestOpen l tag → ¬ s.isObserver l → ((s.rc t).hold.has l ∨ (s.rc t).hold.self) →
    (State.resumeLater l (s.rc t) → s.windowOpen l) →
    completes (.resume l tag (indexByte t)) s fun s' =>
      let r := s.rc t
      let bs := State.resumeNotices l t r (s.acc t)
      let hold := State.resumeHold l r
      s'.mute = ((s.afterDelivery l).resumeEffect l tag t).mute ∧ s.tellsOthers s' l t bs ∧ s.othersUnanswered s' l ∧
        if State.resumeLater l r then
          (s'.link l).respQ = (s.link l).respQ ++
              (State.resumeAborts l r).map (fun x => { owner := .session, resp := x.2 }) ∧
            s.heard s' l (if s.watches l t then bs else [])
        else
          s.repliedAfter s' l .session ((State.resumeAborts l r).map (·.2))
            { tag, status := State.resumeStatus r.run, kind := 0x11
              payload := if State.resumeStatus r.run = .ok then [flagByte (!hold.isEmpty), hold.byte] else [] }
            (if s.watches l t then bs else [])

/-- STATUS is answered at once in every run state with the values held, and changes nothing but the lease; a target above 3 is refused.
-/
def Obligations.StatusReportsAndChangesNothing : Prop :=
  ∀ (s : State) (l t : Index) (tag target : Byte),
    s.requestOpen l tag →
    (3 < target.toNat → completes (.status l tag target) s fun s' =>
      s'.mute = (s.afterFrame l).mute ∧ s.othersSilent s' l ∧
        s.replied s' l { tag, status := .badOperand, kind := 0x13, payload := [] } []) ∧
    completes (.status l tag (indexByte t)) s fun s' =>
      s'.mute = (s.afterDelivery l).mute ∧ s.othersSilent s' l ∧
        s.replied s' l
          { tag, status := .ok, kind := 0x13
            payload := [(s.rc t).run.code, (s.rc t).hold.byte, ownerByte (s.rc t).lock] ++
              haltCauseBytes (s.rc t).haltCause ++ bytes24 (s.rc t).lastPc ++
              [byteOf (s.acc t).queue.length, byteOf (s.boundCount t)] } []

/-- A well-formed HALTED report in RUNNING, STOPPING, RELEASING, SVC_PENDING, SERVICE or UNRESPONSIVE enters HALTED by the row of Table
1-5; what the port does about the watch and the examination of the access queue follow. Where somebody holds the target every waiter is
answered (log entry 15 reads R5 with R15). The watch is dealt with after the Run Control Unit has taken the report (log entry 10), and
the access queue is examined once, at the end and in the run state left, not in HALTED when the report goes on to RELEASING (log entry
14 reads R72). -/
def Obligations.HaltedReportEntersHalted : Prop :=
  ∀ (s : State) (t : Index) (flags check : Byte) (pc : Addr),
    (Instr.haltedReport t flags pc check).wellFormed → (s.port t).link = .active →
    (s.rc t).run ∈ [.running, .stopping, .releasing, .svcPending, .service, .unresponsive] →
    let r := s.rc t
    let joins := if r.run = .stopping then selfFlag flags else if r.run = .unresponsive then r.hold.isEmpty else true
    let hold := if joins then r.hold.addSelf else r.hold
    let cause := if r.run = .stopping ∨ r.run = .unresponsive then State.causeOfStop r.stopCause else .self
    let answersIt := match s.outstandingMsg t with | some m => m.answeredByHalted | none => false
    let s0 := if answersIt then s.clearOutstanding t else s
    let s1 := if r.run = .svcPending then s0.cancelService t else s0
    ∃ u : State, exec (.haltedReport t flags pc check) s = .next ((u.watchAfterReport s t).examine t) ∧
      u.mute = (s1.haltedEntry t hold cause pc).mute ∧ s.tells u t (State.haltNotices t r (s.acc t) hold cause pc) ∧
      s.answered u (State.haltAnswers r hold)

/-- A RUNNING report in HALTED, RELEASING or UNRESPONSIVE enters RUNNING when nobody holds the target, and is answered by a stop
otherwise; the RESUME waiters are answered in RELEASING in either case. In HALTED, RESUME waiters of a deferral stay where somebody
holds the target (log entry 31). The watch is dealt with after any STOP (log entry 10), and the access queue is examined at the end, in
the run state left (log entry 14). -/
def Obligations.RunningReportEntersRunningOrStops : Prop :=
  ∀ (s : State) (t : Index) (check : Byte),
    (Instr.runningReport t check).wellFormed → (s.port t).link = .active →
    (s.rc t).run ∈ [.halted, .releasing, .unresponsive] →
    let r := s.rc t
    let answersIt := match s.outstandingMsg t with | some m => m.answeredByRunning | none => false
    let s0 := if answersIt then s.clearOutstanding t else s
    let held := r.run = .releasing ∧ ¬ r.hold.isEmpty
    let s1 :=
      if held then
        (s0.leaves (State.kindAnswers r .resume r.hold)).modRc t
          fun x => { x with waiters := x.waiters.filter fun w => w.kind != .resume }
      else s0
    ∃ u : State, exec (.runningReport t check) s = .next ((u.watchAfterReport s t).examine t) ∧
      u.mute = (s1.runEntry t).mute ∧ s.tells u t (State.runNotices t r) ∧
      s.answered u (if held then State.kindAnswers r .resume r.hold else State.runAnswers r)

/-- A HALTED report in HALTED updates the last pc only. A RUNNING report in RUNNING, STOPPING, SVC_PENDING or SERVICE changes nothing,
a message that it answers apart. -/
def Obligations.ReportsThatEnterNothing : Prop :=
  (∀ (s : State) (t : Index) (flags check : Byte) (pc : Addr),
     (Instr.haltedReport t flags pc check).wellFormed → (s.port t).link = .active → (s.rc t).run = .halted →
     (s.port t).outstanding = none → (s.port t).watchOwed = false →
     exec (.haltedReport t flags pc check) s = .next (s.modRc t fun r => { r with lastPc := pc })) ∧
  (∀ (s : State) (t : Index) (check : Byte),
     (Instr.runningReport t check).wellFormed → (s.port t).link = .active →
     (s.rc t).run ∈ [.running, .stopping, .svcPending, .service] → (s.port t).watchOwed = false →
     (∀ m ∈ s.outstandingMsg t, m.answeredByRunning = false) →
     exec (.runningReport t check) s = .next s)

/-- The answer to the attach PROBE: HALTED with cause SELF, SELF joining an empty hold set, or RUNNING, a held target being stopped.
The WATCH that a differing demand requires is handed after the STOP or RUN that the answer causes (log entry 10, the model's choice),
the waiters of a held target are answered together in list order (log entry 15), and the access queue is examined at the end, in the
run state left (log entry 14). -/
def Obligations.ProbeAnswerAgreesWithHoldSet : Prop :=
  ∀ (s : State) (t : Index) (flags check : Byte) (pc : Addr),
    (s.port t).link = .probing → s.outstandingMsg t = some .probe → (s.rc t).run = .detached →
    let r := s.rc t
    let hold := if r.hold.isEmpty then r.hold.addSelf else r.hold
    let s1 := (s.clearOutstanding t).modPort t fun p => { p with link := .active }
    ((Instr.haltedReport t flags pc check).wellFormed →
      ∃ u : State, exec (.haltedReport t flags pc check) s = .next ((u.watchAfterReport s t).examine t) ∧
        u.mute = (s1.haltedEntry t hold .self pc).mute ∧ s.tells u t (State.haltNotices t r (s.acc t) hold .self pc) ∧
        s.answered u (State.haltAnswers r hold)) ∧
    ((Instr.runningReport t check).wellFormed →
      ∃ u : State, exec (.runningReport t check) s = .next ((u.watchAfterReport s t).examine t) ∧
        u.mute = (s1.runEntry t).mute ∧ s.tells u t (State.runNotices t r) ∧ s.answered u (State.runAnswers r))

/-- The stop timer and the run timer make the target UNRESPONSIVE; the work waiting on it is answered, and its claims are kept. The
order of the answers is read from R19 and R191 (log entry 13), the watch of a port that becomes ACTIVE follows them (log entry 10), and
the watch owed after an expiry on RST_OFF from R46 (log entry 11). -/
def Obligations.StopAndRunTimeoutsMakeUnresponsive : Prop :=
  ∀ (s : State) (t : Index),
    let r := s.rc t
    let s1 := (s.clearOutstanding t).unresponsiveEntry t
    let told (u : State) : Prop :=
      s.tells u t [.state t .unresponsive r.hold r.lock none] ∧ s.answered u (State.allWorkAnswers r .unresponsive .timeout)
    (s.outstandingMsg t ∈ [some .stop, some .step, some .svcExitHold] →
      ∃ u : State, exec (.stopTimerExpiry t) s = .next (u.examine t) ∧ u.mute = s1.mute ∧ told u) ∧
    (s.outstandingMsg t = some .run →
      ∃ u : State, exec (.runTimerExpiry t) s = .next (u.examine t) ∧ u.mute = s1.mute ∧ told u) ∧
    (s.outstandingMsg t = some .probe →
      ∃ u : State, exec (.runTimerExpiry t) s = .next ((u.watchAtActive t).examine t) ∧
        u.mute = (s1.modPort t fun p => { p with link := .active }).mute ∧ told u) ∧
    (∀ flag, s.outstandingMsg t = some (.rstOff flag) →
      ∃ u : State, exec (.runTimerExpiry t) s = .next (u.examine t) ∧
        u.mute = (s1.modPort t fun p => { p with watchEnable := false, watchOwed := true }).mute ∧ told u)

/-- PRESENT rising on an enabled port begins an attach: RST_OFF with the hold flag where reset asserted is set, WATCH by the demand,
then PROBE under the run timer. PRESENT falling detaches an ACTIVE target: everything waiting on it is answered DETACHED, in the order
of log entry 13, and the claims on it are kept; in PROBING the attach is abandoned. On a disabled port only the line is recorded, which
log entry 4 states for the model. The batch count stays as it is (log entry 30). -/
def Obligations.PresentAttachesAndDetaches : Prop :=
  (∀ (s : State) (t : Index), (s.port t).present = false →
     ((s.port t).link = .disabled → exec (.presentRise t) s = .next (s.modPort t fun p => { p with present := true })) ∧
     ((s.port t).link = .absent →
       exec (.presentRise t) s = .next (s.modPort t fun p =>
         { p with
           present := true, link := .probing, watchEnable := s.demand t
           outstanding := some { msg := .probe, timer := (s.cfg t).run.toNat }
           sendList := p.sendList ++ (if p.resetAsserted then [.rstOff true] else []) ++ [.watch (s.demand t), .probe] }))) ∧
  (∀ (s : State) (t : Index), (s.port t).present = true →
     let low := s.modPort t fun p => { p with present := false }
     let idle := s.modPort t fun p => { p with present := false, outstanding := none, sendList := [], link := .absent }
     let r := s.rc t
     ((s.port t).link = .disabled → exec (.presentFall t) s = .next low) ∧
     ((s.port t).link = .probing ∨ (s.port t).link = .absent → exec (.presentFall t) s = .next idle) ∧
     ((s.port t).link = .active →
       completes (.presentFall t) s fun s' =>
         s'.mute = (low.detachedEntry t .absent).mute ∧
         s.tells s' t [.state t .detached r.hold r.lock none] ∧ s.answered s' (s.detachAnswers t)))

/-! ### Stepping (chapter 2) -/

/-- An accepted STEP removes SELF, creates the step sequence record, enters STEPPING and hands the first STEP, which is held back while
an access is in flight. A STEP that the window admits is refused with the status of the first of R28's checks that fails, and changes
nothing. The waiters stay as they are, those of a release deferral that the STEP clears among them (log entry 31). -/
def Obligations.StepStartsSequenceOrIsRefused : Prop :=
  (∀ (s : State) (l t : Index) (tag count : Byte),
     s.requestOpen l tag → s.windowOpen l → count ≠ 0 → ¬ s.isObserver l → ¬ (s.rc t).lockedAgainst l →
     (s.rc t).run = .halted → (s.rc t).hold.has l → ¬ (s.rc t).hold.hasOther l →
     completes (.step l tag (indexByte t) count) s fun s' =>
       let seq : StepSeq :=
         { session := l, tag, requested := count.toNat, done := 0, outstanding := !(s.acc t).inFlight, interrupted := false
           brk := none, aborted := false, discard := false }
       let hold := (s.rc t).hold.removeSelf
       let s1 := ((s.afterDelivery l).joinWindow l tag).modRc t fun r =>
         { r with run := .stepping, hold, relDefer := false, stepSeq := some seq }
       let bs : List NoticeBody := [.state t .stepping hold (s.rc t).lock none]
       s'.mute = (if (s.acc t).inFlight then s1 else s1.handRc t .step).mute ∧ hold.isOnly l ∧
         s.tellsOthers s' l t bs ∧ s.unanswered s' l (if s.watches l t then bs else []) ∧ s.othersUnanswered s' l) ∧
  (∀ (s : State) (l t : Index) (tag count : Byte) (st : Status),
     s.requestOpen l tag → s.windowOpen l →
     (if count = 0 then some Status.badOperand
      else if s.role? l = some .observer then some .role
      else if ∃ o, (s.rc t).lock = some o ∧ o ≠ l then some .locked
      else if (s.rc t).run ≠ .halted then some .notHalted
      else if (s.rc t).hold.members.get l = false then some .notHeld
      else if ∃ m, m ≠ l ∧ (s.rc t).hold.members.get m = true then some .heldByOther
      else none) = some st →
     completes (.step l tag (indexByte t) count) s fun s' =>
       s'.mute = (s.afterDelivery l).mute ∧ s.othersSilent s' l ∧
         s.replied s' l { tag, status := st, kind := 0x12, payload := [] } [])

/-- A step report after which the sequence continues: the step is counted and the next STEP is handed, and nothing else changes. While
no STEP is outstanding a HALTED report in STEPPING updates the last pc only. A RUNNING report is discarded while one is, and otherwise
ends the sequence without entering HALTED. A RUNNING report that ends the sequence with the hold set not empty leaves the RESUME
waiters in the list (log entry 31). The watch is dealt with after any STOP (log entry 10), and the access queue is examined at the end,
in the run state left (log entry 14). -/
def Obligations.ReportsWithinSequence : Prop :=
  (∀ (s : State) (t : Index) (flags check : Byte) (pc : Addr) (q : StepSeq),
     (Instr.haltedReport t flags pc check).wellFormed → (s.port t).link = .active → (s.port t).watchOwed = false →
     s.outstandingMsg t = some .step → (s.rc t).run = .stepping → (s.rc t).stepSeq = some q → q.outstanding →
     selfFlag flags = false → stepFlag flags = true → q.done + 1 < q.requested → ¬ q.interrupted → ¬ q.aborted → q.brk = none →
     (s.rc t).hold.isOnly q.session → ((s.rc t).lock = none ∨ (s.rc t).lock = some q.session) →
     exec (.haltedReport t flags pc check) s = .next ((s.modRc t fun r =>
       { r with lastPc := pc, stepSeq := some { q with done := q.done + 1 } }).handRc t .step)) ∧
  (∀ (s : State) (t : Index) (flags check : Byte) (pc : Addr) (q : StepSeq),
     (s.port t).link = .active → (s.port t).watchOwed = false → (s.rc t).run = .stepping → (s.rc t).stepSeq = some q →
     let r := s.rc t
     let st : Status := if q.aborted ∨ ¬ r.hold.has q.session then .aborted else .interrupted
     let ends := State.seqAnswer r q st
     let s1 := (s.leaves ends).modRc t fun x => { x with stepSeq := none }
     ((Instr.haltedReport t flags pc check).wellFormed → ¬ q.outstanding → s.outstandingMsg t = none →
       exec (.haltedReport t flags pc check) s = .next (s.modRc t fun x => { x with lastPc := pc })) ∧
     ((Instr.runningReport t check).wellFormed → q.outstanding → s.outstandingMsg t = some .step →
       exec (.runningReport t check) s = .next s) ∧
     ((Instr.runningReport t check).wellFormed → ¬ q.outstanding → s.outstandingMsg t = none →
       ∃ u : State, exec (.runningReport t check) s = .next ((u.watchAfterReport s t).examine t) ∧
         u.mute = (s1.runEntry t).mute ∧ s.tells u t (State.runNotices t r) ∧ s.answered u (ends ++ State.runAnswers r)))

/-- A step report after which the sequence does not continue ends it in HALTED, with the status and the halt cause of R35. Where
somebody holds the target, HALT and RESUME waiters are answered together in list order (log entry 15), the watch is dealt with after
the RUN of a release (log entry 10), and the access queue is examined at the end, in the run state left (log entry 14). -/
def Obligations.StepReportEndsSequence : Prop :=
  ∀ (s : State) (t : Index) (flags check : Byte) (pc : Addr) (q : StepSeq),
    (Instr.haltedReport t flags pc check).wellFormed → (s.port t).link = .active →
    s.outstandingMsg t = some .step → (s.rc t).run = .stepping → (s.rc t).stepSeq = some q → q.outstanding →
    ¬ (selfFlag flags = false ∧ stepFlag flags = true ∧ q.done + 1 < q.requested ∧ q.interrupted = false ∧ q.aborted = false ∧
        q.brk = none ∧ (s.rc t).hold.isOnly q.session ∧ ((s.rc t).lock = none ∨ (s.rc t).lock = some q.session)) →
    let r := s.rc t
    let own := selfFlag flags || !stepFlag flags
    let hold := if own then r.hold.addSelf else r.hold
    let q1 := { q with done := if stepFlag flags then q.done + 1 else q.done }
    let st : Status :=
      if q.aborted ∨ ¬ hold.has q.session then .aborted
      else if q.interrupted ∨ own ∨ q.brk ≠ none ∨ hold.hasOther q.session ∨ r.lockedAgainst q.session ∨ hold.self then .interrupted
      else .ok
    let cause : HaltCause := match q.brk with
      | some h => .brk h
      | none => if own then .self else .stepEnd
    let ends := State.seqAnswer { r with lastPc := pc } q1 st
    let s1 := ((s.clearOutstanding t).leaves ends).modRc t fun x => { x with stepSeq := none }
    ∃ u : State, exec (.haltedReport t flags pc check) s = .next ((u.watchAfterReport s t).examine t) ∧
      u.mute = (s1.haltedEntry t hold cause pc).mute ∧ s.tells u t (State.haltNotices t r (s.acc t) hold cause pc) ∧
      s.answered u (ends ++ State.haltAnswers r hold)

/-! ### Breakpoint records and comparator banks (chapter 3) -/

/-- The handle of a new record is the lowest not in use, and there is none exactly when all 32 are in use. A new record shares the
first bound comparator with an identical specification; otherwise it takes the lowest-numbered free one of C2 and C3 with a data
condition, and of C0 to C3 without. -/
def Obligations.HandleAndComparatorChosen : Prop :=
  (∀ (s : State) (h : Handle),
     (s.freeHandle? = some h ↔ (∀ x ∈ s.records, x.handle ≠ h) ∧ ∀ g, g < h → ∃ x ∈ s.records, x.handle = g) ∧
     (s.freeHandle? = none ↔ ∀ g : Handle, ∃ x ∈ s.records, x.handle = g)) ∧
  (∀ (bank : Quad Comparator) (m : MatchSpec),
     let same (c : Index) : Bool := !(bank.get c).subs.isEmpty && decide ((bank.get c).spec = some m)
     let free (c : Index) : Bool := (bank.get c).subs.isEmpty && (m.cond.isNone || decide (2 ≤ c.val))
     (∀ c, bindTo? bank m = some (c, true) ↔ same c ∧ ∀ d, d < c → ¬ same d) ∧
     (∀ c, bindTo? bank m = some (c, false) ↔ (∀ d, ¬ same d) ∧ free c ∧ ∀ d, d < c → ¬ free d) ∧
     (bindTo? bank m = none ↔ ∀ c, ¬ same c ∧ ¬ free c))

/-- An accepted SETBRK creates its record on the comparator chosen and answers OK with handle, comparator and shared flag; a bank that
was empty turns the watch on. -/
def Obligations.SetbrkCreatesRecord : Prop :=
  ∀ (s : State) (l t : Index) (tag mode : Byte) (address mask : Addr) (passes : Half) (k : BrkKind) (a : Action) (h : Handle)
    (c : Index) (shared : Bool),
    let cond := if modeDataFlag mode then (s.link l).pendingData else none
    let m : MatchSpec :=
      { kind := k, address := address &&& mask, mask
        cond := cond.map fun d => { value := d.value &&& d.mask, mask := d.mask } }
    s.requestOpen l tag → (modeDataFlag mode → cond.isSome) →
    modeKind? mode = some k → modeAction? mode = some a → modeReserved mode = false → (cond.isSome → k ≠ .fetch ∧ k ≠ .any) →
    (s.isObserver l → a = .notify) → s.freeHandle? = some h → bindTo? (s.bank t) m = some (c, shared) →
    completes (.setbrk l tag (indexByte t) mode address mask passes) s fun s' =>
      let x : Record :=
        { handle := h, owner := l, target := t, kind := k, address := m.address, mask, cond := m.cond, passes, remaining := passes
          action := a, persistence := modePersistence mode, hits := 0, comparator := c }
      let s1 := { (s.afterDelivery l).modLink l (fun u => { u with pendingData := none }) with
        records := insertRecord x s.records }
      let s2 := s1.modBank t fun b => b.modify c fun y => { spec := some m, subs := y.subs ++ [h] }
      s'.mute = (if s.demand t then s2 else s2.watchSent t).mute ∧ s.othersSilent s' l ∧
        s.replied s' l { tag, status := .ok, kind := 0x20, payload := [handleByte h, indexByte c, flagByte shared] } []

/-- A match-form SETBRK is refused with the status of the first of R47's checks that fails; it creates nothing, but the pending data
condition is consumed (R151). A data-form SETBRK replaces the pending data condition and is answered OK; a match form whose data flag
finds none pending is refused BAD_OPERAND by the Link Unit. -/
def Obligations.SetbrkRefusedOrPending : Prop :=
  (∀ (s : State) (l t : Index) (tag mode : Byte) (address mask : Addr) (passes : Half) (st : Status),
     let cond := if modeDataFlag mode then (s.link l).pendingData else none
     let kind? := modeKind? mode
     let spec (k : BrkKind) : MatchSpec :=
       { kind := k, address := address &&& mask, mask
         cond := cond.map fun d => { value := d.value &&& d.mask, mask := d.mask } }
     s.requestOpen l tag → (modeDataFlag mode → cond.isSome) →
     (if kind? = none ∨ modeAction? mode = none ∨ modeReserved mode ∨ cond.isSome ∧ (kind? = some .fetch ∨ kind? = some .any) then
        some Status.badOperand
      else if s.isObserver l ∧ modeAction? mode ≠ some .notify then some .role
      else if ∀ g : Handle, (s.record? g).isSome then some .tableFull
      else if ∀ k, kind? = some k → bindTo? (s.bank t) (spec k) = none then some .noComparator
      else none) = some st →
     completes (.setbrk l tag (indexByte t) mode address mask passes) s fun s' =>
       s'.mute = ((s.afterDelivery l).modLink l fun u => { u with pendingData := none }).mute ∧ s.othersSilent s' l ∧
         s.replied s' l { tag, status := st, kind := 0x20, payload := [] } []) ∧
  (∀ (s : State) (l t : Index) (tag mode : Byte) (value vmask : Word) (address mask : Addr) (passes : Half),
     s.requestOpen l tag →
     (completes (.setbrkDataForm l tag value vmask) s fun s' =>
       s'.mute = ((s.afterFrame l).modLink l fun u => { u with pendingData := some { value, mask := vmask } }).mute ∧
         s.othersSilent s' l ∧ s.replied s' l { tag, status := .ok, kind := 0x20, payload := [] } []) ∧
     (modeDataFlag mode → (s.link l).pendingData = none →
       completes (.setbrk l tag (indexByte t) mode address mask passes) s fun s' =>
         s'.mute = (s.afterFrame l).mute ∧ s.othersSilent s' l ∧
           s.replied s' l { tag, status := .badOperand, kind := 0x20, payload := [] } []))

/-- Deleting a record takes its handle from the table and from every subscriber list; a comparator whose list empties becomes free, and
nothing else changes. -/
def Obligations.DeletionFreesComparator : Prop :=
  ∀ (s : State) (h : Handle), (s.record? h).isSome →
    let u := s.dropRecord h
    u.records = s.records.filter (fun x => x.handle != h) ∧
    (∀ t c, (u.bank t).get c =
      let subs := ((s.bank t).get c).subs.filter fun g => g != h
      if subs = [] then { spec := none, subs := [] } else { spec := ((s.bank t).get c).spec, subs }) ∧
    (∀ t, u.rc t = s.rc t ∧ u.acc t = s.acc t ∧ u.port t = s.port t ∧ u.cfg t = s.cfg t) ∧
    u.links = s.links ∧ u.sessions = s.sessions ∧ u.notices = s.notices ∧ u.sched = s.sched ∧ u.pending = s.pending

/-- CLRBRK: the refusals of R63 in their order, and the deletion with its response, a REVOKED notice to another session's owner and the
WATCH(off) of a bank that empties. -/
def Obligations.ClrbrkDeletesRecord : Prop :=
  ∀ (s : State) (l : Index) (tag handle : Byte) (h : Handle) (x : Record),
    s.requestOpen l tag →
    let refused (st : Status) : Prop :=
      completes (.clrbrk l tag handle) s fun s' =>
        s'.mute = (s.afterDelivery l).mute ∧ s.othersSilent s' l ∧
          s.replied s' l { tag, status := st, kind := 0x21, payload := [] } []
    (toHandle? handle = none → refused .badOperand) ∧
    (toHandle? handle = some h → s.record? h = none → refused .noSuchBreak) ∧
    (toHandle? handle = some h → s.record? h = some x →
      (x.owner ≠ l → s.role? l ≠ some .supervisor → refused .notOwner) ∧
      (x.owner = l ∨ s.role? l = some .supervisor →
        completes (.clrbrk l tag handle) s fun s' =>
          let t := x.target
          let s1 := (s.afterDelivery l).dropRecord h
          s'.mute = (if s.demand t = s1.demand t then s1 else s1.watchSent t).mute ∧ s.othersUnanswered s' l ∧
            (∀ n, n ≠ l → s.heard s' n (if n = x.owner ∧ s.isOpen n then [.revokedBreak h t] else [])) ∧
            s.replied s' l
              { tag, status := .ok, kind := 0x21
                payload := [indexByte t, flagByte ((s1.bank t).get x.comparator).subs.isEmpty] } []))

/-- QBRK: the refusals of R65 in their order, and the fields of the part asked for; it changes nothing. -/
def Obligations.QbrkReturnsPart : Prop :=
  ∀ (s : State) (l : Index) (tag handle part : Byte) (h : Handle) (x : Record),
    s.requestOpen l tag →
    let gives (st : Status) (bs : List Byte) : Prop :=
      completes (.qbrk l tag handle part) s fun s' =>
        s'.mute = (s.afterDelivery l).mute ∧ s.othersSilent s' l ∧ s.replied s' l { tag, status := st, kind := 0x22, payload := bs } []
    (toHandle? handle = none → gives .badOperand []) ∧
    (toHandle? handle = some h →
      (3 < part.toNat → gives .badOperand []) ∧
      (part.toNat ≤ 3 → s.record? h = none → gives .noSuchBreak []) ∧
      (s.record? h = some x →
        (part = 0 → gives .ok [indexByte x.owner, indexByte x.target, x.kind.code, x.action.code, x.persistence.code,
          indexByte x.comparator, byteOf (((s.bank x.target).get x.comparator).subs.idxOf x.handle + 1), flagByte x.cond.isSome]) ∧
        (part = 1 → gives .ok (bytes24 x.address ++ bytes24 x.mask)) ∧
        (part = 2 → gives .ok (bytes16 x.passes ++ bytes16 x.remaining ++ bytes16 x.hits)) ∧
        (part = 3 → gives .ok (match x.cond with
          | some d => 1 :: (bytes32 d.value ++ bytes32 d.mask)
          | none => [0, 0, 0, 0, 0, 0, 0, 0, 0]))))

/-- A bound comparator matches a report when kind, address and data condition all agree. -/
def Obligations.ComparatorMatch : Prop :=
  ∀ (c : Comparator) (m : MatchSpec) (r : RefReport), c.spec = some m →
    (c.matchesRef r = true ↔
      c.subs ≠ [] ∧
      (m.kind = .any ∨ m.kind = .fetch ∧ r.kind = .fetch ∨ (m.kind = .load ∨ m.kind = .data) ∧ r.kind = .load ∨
        (m.kind = .store ∨ m.kind = .data) ∧ r.kind = .store) ∧
      r.address &&& m.mask = m.address ∧
      (∀ d, m.cond = some d → ∃ w, r.data = some w ∧ w &&& d.mask = d.value))

/-- A reference report is discarded in the run states that Table 3-3 gives, and otherwise takes the subscribers of the matching
comparators in index order and list order, each one once, before the WATCH(off) of an emptied bank. -/
def Obligations.ReferenceTakesMatchingRecords : Prop :=
  ∀ (s : State) (t : Index) (kind check : Byte) (address : Addr) (data : Option Word) (k : RefKind),
    (Instr.ref t kind address data check).wellFormed → (s.port t).link = .active → RefKind.ofByte? kind = some k →
    let r : RefReport := { kind := k, address, data }
    let subs (c : Index) : List Handle := if ((s.bank t).get c).matchesRef r then ((s.bank t).get c).subs else []
    (State.refsMatched (s.rc t) = false → exec (.ref t kind address data check) s = .next s) ∧
    (∀ (v : State) (h : Handle), v.record? h = none → v.takeRecord r h = v) ∧
    (State.refsMatched (s.rc t) = true →
      let u := (subs 0 ++ subs 1 ++ subs 2 ++ subs 3).foldl (State.takeRecord r) s
      exec (.ref t kind address data check) s = .next (if u.demand t = s.demand t then u else u.watchChanged t))

/-- A record taken in a matching report either lets it pass, its remaining count lowered by one, or fires: hit count, BREAK notice,
action and persistence. -/
def Obligations.TakenRecordCountsOrFires : Prop :=
  ∀ (s : State) (r : RefReport) (h : Handle) (x : Record),
    s.record? h = some x → State.refsMatched (s.rc x.target) → s.isOpen x.owner →
    (x.remaining ≠ 0 → s.takeRecord r h = s.modRecord h fun y => { y with remaining := x.remaining - 1 }) ∧
    (x.remaining = 0 →
      let u := s.takeRecord r h
      u.mute = (s.fireEffect x).mute ∧ s.answered u [] ∧
      ∀ n, s.heard u n ((if n = x.owner then [State.breakNotice r x s] else []) ++
        if s.watches n x.target then State.fireNotices x s else []))

/-! ### Target accesses (chapter 4) -/

/-- A READ or WRITE that passes the checks of R71 joins the tail of the queue; it is examined at once when the queue was empty. A READ
or WRITE that the window admits is refused with the status of the first of R71's checks that fails, and adds no entry. -/
def Obligations.AccessJoinsQueueOrIsRefused : Prop :=
  (∀ (s : State) (l t : Index) (tag space : Byte) (location : Addr) (data : Word) (sp : Space),
     s.requestOpen l tag → s.windowOpen l → Space.ofByte? space = some sp → (sp = .core → location.toNat ≤ 127) →
     (s.acc t).queue.length < 8 →
     let joined (op : AccOp) : State := ((s.afterDelivery l).joinWindow l tag).modAcc t fun a =>
       { a with queue := a.queue ++
           [{ session := l, tag, op, space := sp, location, inFlight := false, written := false, discard := false }] }
     let taken (op : AccOp) : State := if (s.acc t).queue = [] then (joined op).examine t else joined op
     exec (.read l tag (indexByte t) space location) s = .next (taken .read) ∧
     (¬ s.isObserver l → ¬ (s.rc t).lockedAgainst l →
       exec (.write l tag (indexByte t) space location data) s = .next (taken (.write data)))) ∧
  (∀ (s : State) (l t : Index) (tag space : Byte) (location : Addr) (data : Word) (st : Status),
     s.requestOpen l tag → s.windowOpen l →
     let bad := 1 < space.toNat ∨ space = 0 ∧ 127 < location.toNat
     let full := 8 ≤ (s.acc t).queue.length
     let refused (c : Instr) (kind : Byte) : Prop :=
       completes c s fun s' =>
         s'.mute = (s.afterDelivery l).mute ∧ s.othersSilent s' l ∧ s.replied s' l { tag, status := st, kind, payload := [] } []
     ((if bad then some Status.badOperand else if full then some .queueFull else none) = some st →
       refused (.read l tag (indexByte t) space location) 0x30) ∧
     ((if bad then some Status.badOperand
       else if s.isObserver l then some .role
       else if (s.rc t).lockedAgainst l then some .locked
       else if full then some .queueFull
       else none) = some st →
       refused (.write l tag (indexByte t) space location data) 0x31))

/-- An examination outside SERVICE treats a WAITING head by the run state as Table 4-3 gives: it waits, it fails and the queue is
examined again, it becomes IN_FLIGHT on the halted path, or an intrusive episode begins. While an entry is IN_FLIGHT, and of an empty
queue outside SERVICE, there is none. -/
def Obligations.ExaminationTreatsHead : Prop :=
  ∀ (s : State) (t : Index) (e : AccEntry) (rest : List AccEntry),
    let r := s.rc t
    ((s.acc t).inFlight → s.examine t = s) ∧
    ((s.acc t).queue = [] → r.run ≠ .service → s.examine t = s) ∧
    ((s.acc t).queue = e :: rest → ¬ e.inFlight → r.run ≠ .service →
      (r.run ∈ [.stopping, .releasing, .stepping, .svcPending, .resetting] → s.examine t = s) ∧
      (∀ st ∈ State.headFails r (s.cfg t).intrusive e,
        ∃ u : State, s.examine t = u.examine t ∧
          u.mute = ((s.leaves (State.accessAnswer e st [])).modAcc t
            fun a => { a with queue := rest }).mute ∧ s.tells u t [] ∧ s.answered u (State.accessAnswer e st [])) ∧
      (r.run = .halted → State.headFails r (s.cfg t).intrusive e = none →
        s.examine t = s.accHanded t e e.op (State.firstPhase e)) ∧
      (r.run = .running → State.headFails r (s.cfg t).intrusive e = none →
        (s.examine t).mute = ((s.modRc t fun x => { x with run := .svcPending }).handRc t .svcReq).mute ∧
          s.tells (s.examine t) t [.state t .svcPending r.hold r.lock none] ∧ s.answered (s.examine t) []))

/-- An examination in SERVICE with no access in flight: the four checks of R86, in their order. -/
def Obligations.ServiceExamination : Prop :=
  ∀ (s : State) (t : Index) (e : AccEntry) (rest : List AccEntry),
    (s.rc t).run = .service → ¬ (s.acc t).inFlight →
    let r := s.rc t
    let servable := (s.acc t).queue.head?.any fun x => !(x.isWrite && r.lockedAgainst x.session)
    (¬ r.hold.isEmpty →
      (s.examine t).mute = ((s.modRc t fun x => { x with run := .stopping }).handRc t .svcExitHold).mute ∧
        s.tells (s.examine t) t [.state t .stopping r.hold r.lock none] ∧ s.answered (s.examine t) []) ∧
    (r.hold.isEmpty → (s.acc t).batch = 4 ∨ ¬ servable →
      ∃ u : State, s.examine t = u.examine t ∧
        u.mute = (((s.hand t (.svcExit false)).leaves (State.runAnswers r)).modRc t State.runningRc).mute ∧
        s.tells u t [.state t .running r.hold r.lock none] ∧ s.answered u (State.runAnswers r)) ∧
    (r.hold.isEmpty → (s.acc t).batch ≠ 4 → servable → (s.acc t).queue = e :: rest →
      s.examine t = s.accHanded t e e.op (State.firstPhase e))

/-- A grant in SVC_PENDING that answers the SVC_REQ enters SERVICE with batch count 0, and the head is examined. A grant in any other
run state is answered with an SVC_EXIT that starts no timer, or is discarded. -/
def Obligations.GrantEntersServiceOrIsLate : Prop :=
  (∀ (s : State) (t : Index) (check : Byte),
     (Instr.svcGrant t check).wellFormed → (s.port t).link = .active → (s.rc t).run = .svcPending →
     s.outstandingMsg t = some .svcReq →
     ∃ u : State, exec (.svcGrant t check) s = .next (u.examine t) ∧
       u.mute = (((s.clearOutstanding t).modAcc t fun a => { a with batch := 0 }).modRc t
         fun r => { r with run := .service }).mute ∧
       s.tells u t [.state t .service (s.rc t).hold (s.rc t).lock none] ∧ s.answered u []) ∧
  (∀ (s : State) (t : Index) (check : Byte),
     (Instr.svcGrant t check).wellFormed → (s.port t).link = .active → (s.rc t).run ≠ .svcPending →
     exec (.svcGrant t check) s = .next (s.modPort t fun p =>
       { p with sendList := p.sendList ++
           (if (s.rc t).run ∈ [.running, .releasing] then [.svcExit false]
            else if (s.rc t).run ∈ [.stopping, .halted] then [.svcExit true] else []) }))

/-- A reply that matches the outstanding exchange ends it by its phase: a READ and a READ_BACK end the access, and a WRITE answered ok
is read back while the target is still halted and ends INTERRUPTED otherwise. The end is reported before the next head is examined. -/
def Obligations.ReplyEndsExchangeByPhase : Prop :=
  ∀ (s : State) (t : Index) (number result check : Byte) (data : Word) (e : AccEntry) (rest : List AccEntry) (x : Exchange),
    (Instr.accReply t number result data check).wellFormed → (s.port t).link = .active → (s.acc t).exchange = some x →
    x.number = number → (s.acc t).queue = e :: rest → e.inFlight → (x.phase = .read ↔ ¬ e.isWrite) →
    let r := s.rc t
    let still : Prop := r.run = .halted ∨ r.run = .service ∨ r.run = .stepping ∧ ∃ q ∈ r.stepSeq, q.outstanding = false
    let ended (e' : AccEntry) (st : Status) (payload : List Byte) : Prop :=
      ∃ u : State, exec (.accReply t number result data check) s = .next ((u.accessReport t).examine t) ∧
        u.mute = (s.accessEnded t e' st payload).mute ∧ s.tells u t [] ∧ s.answered u (State.accessAnswer e' st payload)
    (result = 1 → ended e .targetError []) ∧
    (result = 0 → x.phase = .read → ended e .ok (bytes32 data)) ∧
    (result = 0 → x.phase = .readBack →
      ended e .ok (bytes32 data ++ [flagByte (match e.op with | .write w => data != w | .read => false)])) ∧
    (result = 0 → x.phase = .write →
      (still →
        exec (.accReply t number result data check) s = .next (s.accHanded t { e with written := true } .read .readBack)) ∧
      (¬ still → ended { e with written := true } .interrupted []))

/-- The report of an access's end completes a deferred release, answers the RESUME waiters of one that is not made, sends a held-back
STEP or ends its sequence in HALTED with the status and the cause of R35, and otherwise does nothing. Where somebody holds the target
every waiter is answered (log entry 15). -/
def Obligations.AccessEndReleasesOrSteps : Prop :=
  ∀ (s : State) (t : Index) (q : StepSeq),
    ¬ (s.acc t).inFlight →
    let r := s.rc t
    let u := s.accessReport t
    (r.relDefer → r.hold.isEmpty →
      u.mute = ((s.modRc t fun x => { x with run := .releasing, relDefer := false }).handRc t .run).mute ∧
        s.tells u t [.state t .releasing r.hold r.lock none] ∧ s.answered u []) ∧
    (r.relDefer → ¬ r.hold.isEmpty →
      let rs := State.kindAnswers r .resume r.hold
      u.mute = ((s.leaves rs).modRc t fun x =>
        { x with relDefer := false, waiters := x.waiters.filter fun w => w.kind != .resume }).mute ∧
        s.tells u t [] ∧ s.answered u rs) ∧
    (¬ r.relDefer → r.run = .stepping → r.stepSeq = some q → ¬ q.outstanding →
      (¬ q.interrupted → ¬ q.aborted → r.hold.isOnly q.session →
        u = (s.modRc t fun x => { x with stepSeq := some { q with outstanding := true } }).handRc t .step) ∧
      (q.interrupted ∨ q.aborted ∨ ¬ r.hold.isOnly q.session →
        let st : Status := if q.aborted ∨ ¬ r.hold.has q.session then .aborted else .interrupted
        let cause : HaltCause := match q.brk with | some h => .brk h | none => .stepEnd
        let ends := State.seqAnswer r q st
        let s1 := (s.leaves ends).modRc t fun x => { x with stepSeq := none }
        u.mute = (s1.haltedEntry t r.hold cause r.lastPc).mute ∧
          s.tells u t (State.haltNotices t r (s.acc t) r.hold cause r.lastPc) ∧ s.answered u (ends ++ State.haltAnswers r r.hold))) ∧
    (¬ r.relDefer → (r.run = .stepping → ∀ q ∈ r.stepSeq, q.outstanding) → u = s)

/-- The exchange timer ends the access TIMEOUT; a target that should be halted becomes UNRESPONSIVE. The grant timer withdraws the
service request, fails the head TIMEOUT and returns to RUNNING; the next head is examined there. The order of the answers is read from
R19 and R191 (log entry 13), and that a timeout in SERVICE raises the batch count from R79 (log entry 24). -/
def Obligations.AccessTimeouts : Prop :=
  (∀ (s : State) (t : Index) (e : AccEntry) (rest : List AccEntry),
     (s.acc t).exchange.isSome → (s.acc t).queue = e :: rest → e.inFlight →
     let r := s.rc t
     let still : Prop := r.run = .halted ∨ r.run = .service ∨ r.run = .stepping ∧ ∃ q ∈ r.stepSeq, q.outstanding = false
     let s1 := s.accessEnded t e .timeout []
     let ends := State.accessAnswer e .timeout []
     ∃ u : State, exec (.exchangeTimerExpiry t) s = .next (u.examine t) ∧
       (¬ still → u.mute = s1.mute ∧ s.tells u t [] ∧ s.answered u ends) ∧
       (still →
         u.mute = (s1.unresponsiveEntry t).mute ∧ s.tells u t [.state t .unresponsive r.hold r.lock none] ∧
           s.answered u (ends ++ State.allWorkAnswers r .unresponsive .timeout))) ∧
  (∀ (s : State) (t : Index),
     (s.rc t).run = .svcPending → s.outstandingMsg t = some .svcReq →
     let r := s.rc t
     let rs := (match (s.acc t).queue with | e :: _ => State.accessAnswer e .timeout [] | [] => []) ++ State.kindAnswers r .resume r.hold
     ∃ u : State, exec (.grantTimerExpiry t) s = .next (u.examine t) ∧
       u.mute = ((((s.cancelService t).leaves rs).modAcc t fun a => { a with queue := a.queue.tail }).modRc t State.runningRc).mute ∧
       s.tells u t [.state t .running r.hold r.lock none] ∧ s.answered u rs)

/-! ### Locks, roles and forced release (chapter 5) -/

/-- LOCK: refused to an OBSERVER, OK with no change to the owner, LOCKED with the owner's number to another session, and otherwise
granted, with a STATE notice and, against another session's step sequence, its interrupted field. UNLOCK: refused to an OBSERVER and to
a session that is not the owner, and otherwise the lock has no owner. Where the response is discarded, the LINK_FAULT follows the other
notices (log entry 8). -/
def Obligations.LockAndUnlock : Prop :=
  (∀ (s : State) (l t : Index) (tag target : Byte),
     s.requestOpen l tag →
     let ok : Response := { tag, status := .ok, kind := 0x14, payload := [indexByte t, indexByte l] }
     let unchanged (r : Response) : Prop :=
       completes (.lock l tag (indexByte t)) s fun s' =>
         s'.mute = (s.afterDelivery l).mute ∧ s.othersSilent s' l ∧ s.replied s' l r []
     (3 < target.toNat → completes (.lock l tag target) s fun s' =>
       s'.mute = (s.afterFrame l).mute ∧ s.othersSilent s' l ∧
         s.replied s' l { tag, status := .badOperand, kind := 0x14, payload := [] } []) ∧
     (s.isObserver l → unchanged { tag, status := .role, kind := 0x14, payload := [] }) ∧
     (¬ s.isObserver l → (s.rc t).lock = some l → unchanged ok) ∧
     (∀ o : Index, ¬ s.isObserver l → (s.rc t).lock = some o → o ≠ l →
       unchanged { tag, status := .locked, kind := 0x14, payload := [indexByte o] }) ∧
     (¬ s.isObserver l → (s.rc t).lock = none →
       completes (.lock l tag (indexByte t)) s fun s' =>
         s'.mute = ((s.afterDelivery l).modRc t fun r =>
           { r with
             lock := some l
             stepSeq := r.stepSeq.map fun q => { q with interrupted := q.interrupted || q.session != l } }).mute ∧
         s.tellsOthers s' l t [s'.stateBody t] ∧ s.othersUnanswered s' l ∧
         s.replied s' l ok (if s.watches l t then [s'.stateBody t] else []))) ∧
  (∀ (s : State) (l t : Index) (tag target : Byte),
     s.requestOpen l tag →
     let answer (st : Status) : Response := { tag, status := st, kind := 0x15, payload := [] }
     let refused (st : Status) : Prop :=
       completes (.unlock l tag (indexByte t)) s fun s' =>
         s'.mute = (s.afterDelivery l).mute ∧ s.othersSilent s' l ∧ s.replied s' l (answer st) []
     (3 < target.toNat → completes (.unlock l tag target) s fun s' =>
       s'.mute = (s.afterFrame l).mute ∧ s.othersSilent s' l ∧
         s.replied s' l { tag, status := .badOperand, kind := 0x15, payload := [] } []) ∧
     (s.isObserver l → refused .role) ∧
     (¬ s.isObserver l → (s.rc t).lock ≠ some l → refused .notOwner) ∧
     (¬ s.isObserver l → (s.rc t).lock = some l →
       completes (.unlock l tag (indexByte t)) s fun s' =>
         s'.mute = ((s.afterDelivery l).modRc t fun r => { r with lock := none }).mute ∧
         s.tellsOthers s' l t [s'.stateBody t] ∧ s.othersUnanswered s' l ∧
         s.replied s' l (answer .ok) (if s.watches l t then [s'.stateBody t] else [])))

/-- The supervisor's FREL takes every other session's hold, SELF and another session's lock away, answers the HALT waiters of the
sessions revoked for hold, tells each revoked session before any STATE notice, and releases a HALTED target that nobody holds. That the
first STATE notice still carries the lock owner is read from R106, R108 and R132 (log entry 9). The response names every session
revoked, also one whose REVOKED notice is lost (log entry 33). Where the response is discarded, the LINK_FAULT follows the other
notices (log entry 8). -/
def Obligations.FrelRevokesOthers : Prop :=
  ∀ (s : State) (l t : Index) (tag : Byte),
    s.requestOpen l tag → s.isSupervisor l →
    completes (.frel l tag (indexByte t)) s fun s' =>
      let r := s.rc t
      let held (n : Index) : Bool := n != l && r.hold.has n
      let locked (n : Index) : Bool := n != l && decide (r.lock = some n)
      let takesLock := r.lockedAgainst l
      let hold : HoldSet := { members := (Quad.all false).set l (r.hold.has l), self := false }
      let releases := r.run == .halted && r.hold != hold && hold.isEmpty && !(s.acc t).inFlight
      let aborts := (r.waiters.filter fun w => w.kind == .halt && held w.session).map (State.waiterAnswer .aborted hold)
      let rc : RunControl :=
        { r with
          hold
          run := if releases then .releasing else r.run
          lock := if takesLock then none else r.lock
          waiters := r.waiters.filter fun w => !(w.kind == .halt && held w.session)
          relDefer := if r.run = .halted ∧ r.hold ≠ hold ∧ hold.isEmpty then (s.acc t).inFlight else r.relDefer
          stepSeq := r.stepSeq.map fun q => { q with aborted := q.aborted || held q.session } }
      let s1 := ((s.afterDelivery l).leaves aborts).modRc t fun _ => rc
      let state (lock : Option Index) : NoticeBody :=
        .state t rc.run hold lock (if rc.run = .halted then some (r.haltCause, r.lastPc) else none)
      let states := (if r.run = .halted ∧ r.hold ≠ hold then [state r.lock] else []) ++ if takesLock then [state none] else []
      let revoked (n : Index) : Bool := held n || locked n
      s'.mute = (if releases then s1.handRc t .run else s1).mute ∧
      (∀ n, n ≠ l → s.heard s' n
        ((if revoked n ∧ s.isOpen n then [.revokedClaims t (held n) (locked n)] else []) ++ if s.watches n t then states else []) ∧
        (s'.link n).respQ = (s.link n).respQ ++ (aborts.filter fun x => x.1 == n && s.isOpen n).map
          fun x => { owner := .session, resp := x.2 }) ∧
      s.replied s' l
        { tag, status := .ok, kind := 0x16
          payload := [hold.byte, ownerByte rc.lock, quadByte ⟨revoked 0, revoked 1, revoked 2, revoked 3⟩] }
        (if s.watches l t then states else [])

/-- HALT and RESUME of an OBSERVER, and FREL, CONFIG in its setting form and TRESET of a session that is not the supervisor, are
refused ROLE and change nothing (Table 5-1; STEP, LOCK, UNLOCK, SETBRK, CLRBRK and WRITE stand with their own checks in other
statements). HALT under another session's lock is refused LOCKED, and a RESUME that would remove nothing is refused NOT_HELD; neither
changes anything. -/
def Obligations.RunRequestsRefused : Prop :=
  (∀ (s : State) (l t : Index) (tag item value : Byte),
     s.requestOpen l tag →
     let refused (c : Instr) (kind : Byte) : Prop :=
       completes c s fun s' =>
         s'.mute = (s.afterDelivery l).mute ∧ s.othersSilent s' l ∧
           s.replied s' l { tag, status := .role, kind, payload := [] } []
     (s.isObserver l → refused (.halt l tag (indexByte t)) 0x10 ∧ refused (.resume l tag (indexByte t)) 0x11) ∧
     (¬ s.isSupervisor l →
       refused (.frel l tag (indexByte t)) 0x16 ∧
       (item.toNat ≤ 6 → refused (.configSet l tag (indexByte t) item value) 0x50) ∧
       (s.windowOpen l → refused (.treset l tag (indexByte t)) 0x51))) ∧
  (∀ (s : State) (l t : Index) (tag : Byte),
     s.requestOpen l tag → ¬ s.isObserver l →
     let refused (c : Instr) (kind : Byte) (st : Status) : Prop :=
       completes c s fun s' =>
         s'.mute = (s.afterDelivery l).mute ∧ s.othersSilent s' l ∧ s.replied s' l { tag, status := st, kind, payload := [] } []
     ((s.rc t).lockedAgainst l → refused (.halt l tag (indexByte t)) 0x10 .locked) ∧
     (¬ (s.rc t).hold.has l → ¬ (s.rc t).hold.self → refused (.resume l tag (indexByte t)) 0x11 .notHeld))

/-! ### Sessions (chapter 6) -/

/-- OPEN: the checks of R114 in their order, and the record of a session newly opened. -/
def Obligations.OpenByFirstCheck : Prop :=
  ∀ (s : State) (l : Index) (tag role lease : Byte),
    s.requestReady l →
    let unchanged (o : RespOwner) (r : Response) : Prop :=
      completes (.openSession l tag role lease) s fun s' =>
        s'.mute = (s.afterDelivery l).mute ∧ s.othersSilent s' l ∧ s.repliedAfter s' l o [] r []
    let answer (st : Status) (p : List Byte) : Response := { tag, status := st, kind := 0x01, payload := p }
    let bad := 2 < role.toNat ∨ lease = 0 ∨ 60 < lease.toNat
    (∀ o ∈ (s.session l).current, ¬ tag ∈ o.tags → unchanged .session (answer .already [o.role.code, o.lease])) ∧
    ((s.session l).current = none →
      (bad → unchanged .none (answer .badOperand [])) ∧
      (¬ bad → role = 2 → (s.session l).capable = false → unchanged .none (answer .role [])) ∧
      (∀ n : Index, ¬ bad → role = 2 → (s.session l).capable = true → s.role? n = some .supervisor →
        (∀ m, m < n → s.role? m ≠ some .supervisor) → unchanged .none (answer .supervisorTaken [indexByte n])) ∧
      (¬ bad → (role = 2 → (s.session l).capable = true ∧ ∀ n, s.role? n ≠ some .supervisor) →
        completes (.openSession l tag role lease) s fun s' =>
          let r : Role := if role = 0 then .observer else if role = 1 then .controller else .supervisor
          s'.mute = ((s.afterDelivery l).modSession l fun x =>
            { x with current := some { role := r, lease, leaseTimer := some lease.toNat, tags := [], watch := .all false } }).mute ∧
          s.othersSilent s' l ∧
          let placed := Config.immediateNeeds ≤ s.freePlaces l
          (s'.link l).respQ = (s.link l).respQ ++ (if placed then
            [{ owner := .session, resp := answer .ok [role, lease, indexByte l, flagByte (s.session l).capable] }] else []) ∧
          (s'.notice l).contents =
            ((if placed then [] else [.linkFault 1]).foldl NoticeQueue.take { s.notice l with nextSeq := 0 }).contents))

/-- PING answers with the role, the lease period, the outstanding count and the number of notice entries, and changes nothing beyond
the lease. On a closed link it is refused NO_SESSION; with an outstanding tag it is refused DUP_TAG, which renews the lease too. -/
def Obligations.PingReportsAndRenews : Prop :=
  ∀ (s : State) (l : Index) (tag : Byte),
    s.requestReady l →
    let answer (st : Status) (p : List Byte) : Response := { tag, status := st, kind := 0x03, payload := p }
    ((s.session l).current = none →
      completes (.ping l tag) s fun s' =>
        s'.mute = (s.afterFrame l).mute ∧ s.othersSilent s' l ∧ s.repliedAfter s' l .none [] (answer .noSession []) []) ∧
    (∀ o ∈ (s.session l).current,
      (tag ∈ o.tags →
        completes (.ping l tag) s fun s' =>
          s'.mute = (s.afterFrame l).mute ∧ s.othersSilent s' l ∧
          (s'.session l).current = some { o with leaseTimer := some o.lease.toNat } ∧ s.replied s' l (answer .dupTag []) []) ∧
      (¬ tag ∈ o.tags →
        completes (.ping l tag) s fun s' =>
          s'.mute = (s.afterDelivery l).mute ∧ s.othersSilent s' l ∧
          (s'.session l).current = some { o with leaseTimer := some o.lease.toNat } ∧
          s.replied s' l
            (answer .ok [o.role.code, o.lease, byteOf o.tags.length, byteOf (s.notice l).entries.length]) []))

/-- CLOSE answers OK with the outstanding count, its response last in the queue, and ends the session: nothing of it is left on any
target, and the responses already queued are kept. The record closes, and then every block takes the announcement once. What a Run
Control Unit does with the end of Sn: it leaves the hold set and the waiter list, its step sequence and its target reset are marked, a
HALTED target that nobody holds is released, and the lock is freed; the notice of the hold set or of the release comes before that of
the lock. What the Breakpoint Table does with the end of Sn: its records are deleted, a comparator whose list empties becomes free, and
a bank that empties has WATCH(off) sent, outside DETACHED and RESETTING. What an Access Engine, the Notice Queue and the Link Unit do
with the end of Sn: its WAITING entries leave and a new head so reached is examined, its IN_FLIGHT entry is marked for discard; its
notices go; and its pending data condition goes, with its queued responses at a lease expiry, but for the one in transmission. The
order of the blocks is not fixed (R123), so the statement says only that there is one (log entry 3). That kept responses are marked as
those of an ended session is log entry 18, and that the response in transmission keeps its place log entry 12. -/
def Obligations.CloseAnswersAndEnds : Prop :=
  (∀ (s : State) (l : Index) (tag : Byte),
     s.requestOpen l tag →
     completes (.close l tag) s fun s' =>
       let r : Response := { tag, status := .ok, kind := 0x02, payload := [byteOf (s.outstanding l)] }
       State.ended l s' ∧ State.keptByEnd l s s' ∧
       (s'.link l).respQ = State.relabelled
         (if Config.immediateNeeds ≤ s.freePlaces l then (s.link l).respQ ++ [{ owner := .session, resp := r }]
          else (s.link l).respQ) ∧
       ∃ u : State, ∃ order : List EndBlock, State.everyBlockOnce order ∧ s' = order.foldl (State.takeEnd l .close) u ∧
         u.mute = ((s.afterDelivery l).closedFor l).mute ∧ s.othersSilent u l ∧ s.replied u l r []) ∧
  (∀ (s : State) (n t : Index) (c : EndCause),
     let r := s.rc t
     let u := s.takeEnd n c (.runControl t)
     let hold := r.hold.remove n
     let lets := r.run == .halted && r.hold.has n
     let releases := lets && hold.isEmpty && !(s.acc t).inFlight
     let run := if releases then .releasing else r.run
     let lock := if r.lock = some n then none else r.lock
     let state (o : Option Index) : NoticeBody := .state t run hold o (if run = .halted then some (r.haltCause, r.lastPc) else none)
     let s1 := s.modRc t fun r =>
       { r with
         run, hold, lock
         waiters := r.waiters.filter fun w => w.session != n
         relDefer := if lets && hold.isEmpty then (s.acc t).inFlight else r.relDefer
         stepSeq := r.stepSeq.map fun q => if q.session = n then { q with aborted := true, discard := true } else q
         resetRec := r.resetRec.map fun q => if q.session = n then { q with discard := true } else q }
     u.mute = (if releases then s1.handRc t .run else s1).mute ∧ s.answered u [] ∧
       s.tells u t ((if lets then [state r.lock] else []) ++ if r.lock = some n then [state none] else [])) ∧
  (∀ (s : State) (n : Index) (c : EndCause),
     let u := s.takeEnd n c .breakTable
     let gone (h : Handle) : Bool := s.records.any fun x => x.handle == h && x.owner == n
     let bound (x : State) (t : Index) : Prop := ∃ d, ((x.bank t).get d).subs ≠ []
     u.records = s.records.filter (fun x => x.owner != n) ∧
     (∀ t d, (u.bank t).get d =
       let subs := ((s.bank t).get d).subs.filter fun h => !gone h
       if subs = [] then { spec := none, subs := [] } else { spec := ((s.bank t).get d).spec, subs }) ∧
     (∀ t, (u.port t) =
       if bound s t ∧ ¬ bound u t ∧ (s.rc t).run ≠ .detached ∧ (s.rc t).run ≠ .resetting then
         { s.port t with sendList := (s.port t).sendList ++ [.watch false], watchEnable := false }
       else s.port t) ∧
     (∀ t, u.rc t = s.rc t ∧ u.acc t = s.acc t ∧ u.cfg t = s.cfg t) ∧
     u.links = s.links ∧ u.sessions = s.sessions ∧ u.notices = s.notices ∧ u.sched = s.sched ∧ u.pending = s.pending) ∧
  (∀ (s : State) (n t : Index) (c : EndCause),
     let withdrawn (e : AccEntry) : Bool := e.session == n && !e.inFlight
     let left := ((s.acc t).queue.filter fun e => !withdrawn e).map fun e => if e.session = n then { e with discard := true } else e
     let s1 := s.modAcc t fun a => { a with queue := left }
     let sending := match (s.link n).tx with | .response _ => 1 | _ => 0
     s.takeEnd n c (.access t) = (if (s.acc t).queue.head?.any withdrawn ∧ left ≠ [] then s1.examine t else s1) ∧
     s.takeEnd n c .notices = s.modNotice n (fun q => { q with entries := [] }) ∧
     s.takeEnd n c .linkUnit = s.modLink n fun v =>
       { v with
         pendingData := none
         respQ := State.relabelled (if c = .lease then
           v.respQ.take sending ++ (v.respQ.drop sending).filter fun e => e.owner != .session else v.respQ) })

/-- The expiry of a running lease timer ends the session with cause LEASE: nothing of it is left, and its queued responses are dropped.
A link break returns the receiver to IDLE with count 0, empties the response queue, and ends the session with cause BREAK; on a link
with no open session it ends nothing. In both the response in transmission keeps its place until it is sent (the model's choice, log
entry 12). A lease timer that does not run has no expiry (log entry 4). The record closes, and every block takes the announcement once,
in an order that is not fixed (log entry 3). What each block does stands in CloseAnswersAndEnds. -/
def Obligations.LeaseAndBreakEndSession : Prop :=
  (∀ (s : State) (l : Index),
     let runs := ((s.session l).current.bind fun o => o.leaseTimer).isSome
     (¬ runs → exec (.leaseExpiry l) s = .next s) ∧
     (runs → completes (.leaseExpiry l) s fun s' =>
       let sending := match (s.link l).tx with | .response _ => 1 | _ => 0
       State.ended l s' ∧ State.keptByEnd l s s' ∧
       (s'.link l).respQ = State.relabelled (((s.link l).respQ.take sending) ++
         ((s.link l).respQ.drop sending).filter fun e => e.owner != .session) ∧
       ∃ order : List EndBlock, State.everyBlockOnce order ∧ s' = order.foldl (State.takeEnd l .lease) (s.closedFor l))) ∧
  (∀ (s : State) (l : Index),
     completes (.linkBreak l) s fun s' =>
       let sending := match (s.link l).tx with | .response _ => 1 | _ => 0
       (s'.link l).rx = .idle ∧ (s'.link l).badFrames = 0 ∧ (s'.link l).gapTimer = none ∧ (s'.link l).idleTimer = none ∧
       (s'.link l).pendingData = none ∧
       let broken := s.modLink l fun u =>
         { u with
           rx := .idle, badFrames := 0, gapTimer := none, idleTimer := none, pendingData := none, respQ := u.respQ.take sending }
       (s.isOpen l →
         State.ended l s' ∧ State.keptByEnd l s s' ∧ (s'.link l).respQ = State.relabelled ((s.link l).respQ.take sending) ∧
         ∃ order : List EndBlock, State.everyBlockOnce order ∧ s' = order.foldl (State.takeEnd l .linkBreak) (broken.closedFor l)) ∧
       (¬ s.isOpen l → s' = broken))

/-! ### Notices (chapter 7) -/

/-- A notice handed to a queue is taken by the first line of R130's table that applies; a link fault raises the count of the oldest
unsent LINK_FAULT entry up to 255, the entries passed over that keep their count (R140). The queue then offers its oldest unsent entry:
with the transmitter free and no response waiting, that entry's frame is begun and its sent flag set, and no other entry changes.
Nothing else changes. That a fault begins a new entry where every unsent LINK_FAULT entry keeps its count is log entry 29. -/
def Obligations.NoticeTakenByFirstLine : Prop :=
  ∀ (s : State) (n : Index) (b : NoticeBody) (c : Nat) (old new : List NoticeEntry) (e : NoticeEntry),
    let q := s.notice n
    let u := s.queueNotice n b
    let overrun := ∃ x ∈ q.entries, x.body = .overrun
    let takes (x : NoticeEntry) : Prop := x.body.isFault ∧ x.sent = false ∧ x.keepsCount = false
    let coalesces := b.isFault ∧ ∃ x ∈ q.entries, takes x
    (¬ s.isOpen n → u = s) ∧
    (s.isOpen n →
      u.mute = s.mute ∧ s.othersSilent u n ∧ (u.link n).respQ = (s.link n).respQ ∧
      (overrun → s.becomes u n q.entries q.nextSeq) ∧
      (¬ overrun → b.isFault → q.entries = old ++ e :: new → e.body = .linkFault c → takes e → (∀ x ∈ old, ¬ takes x) →
        s.becomes u n (old ++ { e with body := .linkFault (if c < 255 then c + 1 else 255) } :: new) q.nextSeq) ∧
      (¬ overrun → ¬ coalesces → q.entries.length < 15 →
        s.becomes u n (q.entries ++ [{ seq := q.nextSeq, body := b, sent := false, keepsCount := false }]) (q.nextSeq + 1)) ∧
      (¬ overrun → ¬ coalesces → 15 ≤ q.entries.length →
        s.becomes u n (q.entries ++ [{ seq := q.nextSeq, body := .overrun, sent := false, keepsCount := false }]) (q.nextSeq + 1)))

/-- ACK removes the entry named and every older one, by place; a number not present is refused BAD_OPERAND and removes none. REPLAY
makes every entry unsent, and a LINK_FAULT entry that was unsent behind an older one made unsent keeps its count until it leaves (R140,
which of several is log entry 29). The oldest is then offered again at once where the transmitter is free (before the response, log
entry 22). It removes and renumbers none. -/
def Obligations.AckAndReplay : Prop :=
  (∀ (s : State) (l : Index) (tag seq : Byte) (old new : List NoticeEntry) (e : NoticeEntry),
     s.requestOpen l tag →
     let answer (st : Status) (p : List Byte) : Response := { tag, status := st, kind := 0x40, payload := p }
     ((∀ x ∈ (s.notice l).entries, x.seq ≠ seq) →
       completes (.ack l tag seq) s fun s' =>
         s'.mute = (s.afterDelivery l).mute ∧ s.othersSilent s' l ∧ s.replied s' l (answer .badOperand []) []) ∧
     ((s.notice l).entries = old ++ e :: new → e.seq = seq → (∀ x ∈ old, x.seq ≠ seq) →
       completes (.ack l tag seq) s fun s' =>
         s'.mute = (s.afterDelivery l).mute ∧ s.othersSilent s' l ∧
         let placed := Config.immediateNeeds ≤ s.freePlaces l
         (s'.link l).respQ = (s.link l).respQ ++ (if placed then
           [{ owner := .session, resp := answer .ok [byteOf (old.length + 1), byteOf new.length] }] else []) ∧
         (s'.notice l).contents =
           ((if placed then [] else [.linkFault 1]).foldl NoticeQueue.take { s.notice l with entries := new }).contents)) ∧
  (∀ (s : State) (l : Index) (tag : Byte),
     s.requestOpen l tag →
     completes (.replay l tag) s fun s' =>
       let es := (s.notice l).entries
       let older (i : Nat) : Bool := (es.take i).any fun x => x.body.isFault && x.sent && !x.keepsCount
       let unsent := es.mapIdx fun i e =>
         { e with sent := false, keepsCount := e.keepsCount || (e.body.isFault && !e.sent && older i) }
       let placed := Config.immediateNeeds ≤ s.freePlaces l
       s'.mute = (s.afterDelivery l).mute ∧ s.othersSilent s' l ∧
       (s'.link l).respQ = (s.link l).respQ ++ (if placed then
         [{ owner := .session
            resp := { tag, status := .ok, kind := 0x41, payload := [byteOf (s.notice l).entries.length] } }] else []) ∧
       (s'.notice l).contents =
         ((if placed then [] else [.linkFault 1]).foldl NoticeQueue.take { s.notice l with entries := unsent }).contents ∧
       (placed → (s.link l).tx ≠ .free ∨ (s.link l).respQ ≠ [] → (s'.notice l).entries = unsent) ∧
       (placed → (s.link l).tx = .free → (s.link l).respQ = [] → ∀ e ∈ unsent.head?,
         (s'.link l).tx = .notice e.frame ∧ (s'.notice l).entries = { e with sent := true } :: unsent.tail))

/-- WATCH replaces the watch set; each target newly added gives one STATE notice, in target order, to this session alone. -/
def Obligations.WatchReplacesSet : Prop :=
  ∀ (s : State) (l : Index) (tag mask : Byte),
    s.requestOpen l tag →
    completes (.watch l tag mask) s fun s' =>
      let set : Quad Bool := ⟨mask.getLsbD 0, mask.getLsbD 1, mask.getLsbD 2, mask.getLsbD 3⟩
      let told := ([0, 1, 2, 3] : List Index).filter fun t => set.get t && !s.watches l t
      s.othersSilent s' l ∧
      if 16 ≤ mask.toNat then
        s'.mute = (s.afterDelivery l).mute ∧ s.replied s' l { tag, status := .badOperand, kind := 0x42, payload := [] } []
      else
        s'.mute = ((s.afterDelivery l).modOpen l fun o => { o with watch := set }).mute ∧
        s.replied s' l { tag, status := .ok, kind := 0x42, payload := [mask] } (told.map s.stateBody)

/-! ### Client links (chapter 8) -/

/-- Every request's fields survive the operand layout of Table 8-6: the code, target-or-handle byte and operands of a request spell
that request and no other. -/
def Obligations.RequestFieldsRoundTrip : Prop :=
  ∀ q : Request, Request.parse q.kind q.toh q.ops = some q

/-- The bytes of a request's frame, arriving one after another at a receiver in IDLE, are one good frame: the bad-frame count is
cleared, the lease restarted, and the request is checked. -/
def Obligations.FrameArrivesWhole : Prop :=
  ∀ (s : State) (l : Index) (tag : Byte) (q : Request),
    (s.link l).rx = .idle → (s.link l).routed = none →
    s.requestArrives l tag q = (s.afterFrame l).checkRequest l tag q.kind q.toh q.ops

/-- In IDLE the start byte begins a frame and any other byte is discarded; in RECEIVING a byte joins the frame, the gap timer starting
again; in HUNT a byte only starts the idle timer again. The expiry of HUNT's idle timer returns the receiver to IDLE with count 0; a
timer that does not run has no expiry. That a stopped timer has no expiry is log entry 4. -/
def Obligations.ReceiverTakesByte : Prop :=
  (∀ (s : State) (l : Index) (b n : Byte) (body : List Byte),
     ((s.link l).rx = .idle →
       exec (.receivedByte l b) s = .next (if b = 0xA5 then s.modLink l (fun u => { u with rx := .receiving [], gapTimer := some 4 }) else s)) ∧
     ((s.link l).rx = .receiving [] → 3 ≤ b.toNat → b.toNat ≤ 14 →
       exec (.receivedByte l b) s = .next (s.modLink l fun u => { u with rx := .receiving [b], gapTimer := some 4 })) ∧
     ((s.link l).rx = .receiving (n :: body) → body.length < n.toNat →
       exec (.receivedByte l b) s = .next (s.modLink l fun u => { u with rx := .receiving (n :: (body ++ [b])), gapTimer := some 4 })) ∧
     ((s.link l).rx = .hunt → exec (.receivedByte l b) s = .next (s.modLink l fun u => { u with idleTimer := some 10 }))) ∧
  (∀ (s : State) (l : Index),
     exec (.huntIdleExpiry l) s = .next (if (s.link l).idleTimer.isSome then
       s.modLink l (fun u => { u with rx := .idle, badFrames := 0, idleTimer := none }) else s))

/-- A length out of range, a check that differs and the expiry of the gap timer discard the frame: the bad-frame count rises, the third
in succession puts the receiver in HUNT with its idle timer started, and a session that is open hears LINK_FAULT. The lease is not
renewed. A gap timer that does not run has no expiry (log entry 4). -/
def Obligations.DamagedFrameDiscarded : Prop :=
  ∀ (s : State) (l : Index) (b n : Byte) (body : List Byte),
    (s.link l).badFrames ≤ 2 →
    let count := (s.link l).badFrames + 1
    let s1 := s.modLink l fun u =>
      if count = 3 then { u with rx := .hunt, badFrames := 3, gapTimer := none, idleTimer := some 10 }
      else { u with rx := .idle, badFrames := count, gapTimer := none }
    let discards (c : Instr) : Prop :=
      completes c s fun s' =>
        s'.mute = s1.mute ∧ s.othersSilent s' l ∧ (s'.link l).respQ = (s.link l).respQ ∧
          s.heard s' l (if s.isOpen l then [.linkFault 1] else [])
    ((s.link l).rx = .receiving [] → b.toNat < 3 ∨ 14 < b.toNat → discards (.receivedByte l b)) ∧
    ((s.link l).rx = .receiving (n :: body) → body.length = n.toNat → crc8 (n :: body) ≠ b → (s.link l).routed = none →
      discards (.receivedByte l b)) ∧
    ((s.link l).gapTimer.isSome → discards (.interByteGapExpiry l)) ∧
    ((s.link l).gapTimer = none → exec (.interByteGapExpiry l) s = .next s)

/-- A good frame is checked by the five generic checks in their order. The first that fails gives the status of an immediate response
with no other effect, and a request that passes them all is routed. -/
def Obligations.GenericChecksInOrder : Prop :=
  ∀ (s : State) (l : Index) (tag kind toh n : Byte) (ops : List Byte),
    (s.link l).rx = .receiving (n :: tag :: kind :: toh :: ops) → n.toNat = ops.length + 3 → (s.link l).routed = none →
    let s1 := (s.modLink l fun u => { u with rx := .idle, gapTimer := none, badFrames := 0 }).restartLease l
    let good : Instr := .receivedByte l (crc8 (n :: tag :: kind :: toh :: ops))
    let refused (st : Status) : Prop :=
      completes good s fun s' =>
        s'.mute = s1.mute ∧ s.othersSilent s' l ∧
          s.repliedAfter s' l (if s.isOpen l then .session else .none) [] { tag, status := st, kind, payload := [] } []
    let known := kind ∈ Request.kinds
    let sessionOk := s.isOpen l ∨ kind = 0x01
    let tagOk := ¬ tag ∈ s.tags l
    let windowOk := kind ∈ Request.deferredKinds → s.windowOpen l
    (¬ known → refused .unknownKind) ∧
    (known → ¬ sessionOk → refused .noSession) ∧
    (known → sessionOk → ¬ tagOk → refused .dupTag) ∧
    (known → sessionOk → tagOk → ¬ windowOk → refused .busy) ∧
    (known → sessionOk → tagOk → windowOk → Request.parse kind toh ops = none → refused .badOperand) ∧
    (∀ q ∈ Request.parse kind toh ops, known → sessionOk → tagOk → windowOk → exec good s = .next (s1.route l tag q))

/-- A request that names a target above 3 is refused BAD_OPERAND by the Link Unit, after the generic checks, whether or not the window
is closed, but for STEP, READ, WRITE and TRESET, which a closed window refuses BUSY first; a match-form SETBRK consumes the pending
data condition all the same (R151). A HALT or RESUME that would be accepted and deferred while the window is closed is refused BUSY by
the Run Control Unit, and changes nothing. A HALT or RESUME that carries operands, spelled by the bytes of its frame, is refused by the
Run Control Unit of its target: BUSY where it would be accepted and deferred while the window is closed, and otherwise BAD_OPERAND
(R159). The Link Unit refuses one that names a target above 3 BAD_OPERAND. -/
def Obligations.LinkAndWindowRefusals : Prop :=
  (∀ (s : State) (l : Index) (tag target a b : Byte) (x y : Addr) (p : Half) (w : Word),
     s.requestOpen l tag → 3 < target.toNat →
     ∀ c ∈ ([(.halt l tag target, 0x10), (.resume l tag target, 0x11), (.step l tag target a, 0x12), (.status l tag target, 0x13),
         (.lock l tag target, 0x14), (.unlock l tag target, 0x15), (.frel l tag target, 0x16),
         (.setbrk l tag target a x y p, 0x20), (.read l tag target a x, 0x30), (.write l tag target a x w, 0x31),
         (.configRead l tag target a, 0x50), (.configSet l tag target a b, 0x50), (.treset l tag target, 0x51)] : List (Instr × Byte)),
       completes c.1 s fun s' =>
         s'.mute = (if c.2 = 0x20 then (s.afterFrame l).modLink l fun u => { u with pendingData := none } else s.afterFrame l).mute ∧
           s.othersSilent s' l ∧
           let st : Status := if c.2 ∈ [0x12, 0x30, 0x31, 0x51] ∧ ¬ s.windowOpen l then .busy else .badOperand
           s.replied s' l { tag, status := st, kind := c.2, payload := [] } []) ∧
  (∀ (s : State) (l t : Index) (tag : Byte),
     s.requestOpen l tag → ¬ s.windowOpen l → ¬ s.isObserver l →
     let busy (c : Instr) (kind : Byte) : Prop :=
       completes c s fun s' =>
         s'.mute = (s.afterDelivery l).mute ∧ s.othersSilent s' l ∧
           s.replied s' l { tag, status := .busy, kind, payload := [] } []
     (¬ (s.rc t).lockedAgainst l → State.haltAtOnce (s.rc t).run = false → busy (.halt l tag (indexByte t)) 0x10) ∧
     ((s.rc t).hold.has l ∨ (s.rc t).hold.self → State.resumeLater l (s.rc t) → busy (.resume l tag (indexByte t)) 0x11)) ∧
  (∀ (s : State) (l t : Index) (tag kind toh n : Byte) (ops : List Byte),
     (s.link l).rx = .receiving (n :: tag :: kind :: toh :: ops) → n.toNat = ops.length + 3 → (s.link l).routed = none →
     s.sched.delays.head? ≠ some true → s.isOpen l → ¬ tag ∈ s.tags l → ops ≠ [] → kind = 0x10 ∨ kind = 0x11 →
     let s1 := (s.modLink l fun u => { u with rx := .idle, gapTimer := none, badFrames := 0 }).restartLease l
     let r := s.rc t
     let later := ¬ s.isObserver l ∧
       if kind = 0x10 then ¬ r.lockedAgainst l ∧ State.haltAtOnce r.run = false
       else (r.hold.has l ∨ r.hold.self) ∧ State.resumeLater l r
     let gives (x : State) (st : Status) : Prop :=
       completes (.receivedByte l (crc8 (n :: tag :: kind :: toh :: ops))) s fun s' =>
         s'.mute = x.mute ∧ s.othersSilent s' l ∧ s.replied s' l { tag, status := st, kind, payload := [] } []
     (3 < toh.toNat → gives s1 .badOperand) ∧
     (toh = indexByte t →
       gives { s1 with sched := { s1.sched with delays := s1.sched.delays.tail } }
         (if later ∧ ¬ s.windowOpen l then .busy else .badOperand)))

/-- When a frame has been sent, a response leaves its queue and the arbiter begins the oldest response, or else the oldest notice not
yet sent, whose sent flag is set; with neither the transmitter stays free. Nothing else changes. An immediate response is placed when 5
places are free, and is otherwise discarded as a link fault; a deferred response of an open session is always placed and leaves the
window. At either placing a free transmitter begins the oldest response of the queue, and one that is sending goes on. With the
transmitter free no frame ends (log entry 4). -/
def Obligations.ArbiterAndPlaces : Prop :=
  (∀ (s : State) (l : Index),
     completes (.frameSent l) s fun s' =>
       let u := s.link l
       let left := match u.tx with | .response _ => u.respQ.tail | _ => u.respQ
       let offered := (s.notice l).entries.find? fun e => !e.sent
       s'.mute = s.mute ∧ s.othersSilent s' l ∧
       (u.tx = .free → s' = s) ∧
       (u.tx ≠ .free →
         (s'.link l).respQ = left ∧
         (∀ e ∈ left.head?, (s'.link l).tx = .response e.resp.frame ∧ s'.notice l = s.notice l) ∧
         (left = [] → ∀ e ∈ offered, (s'.link l).tx = .notice e.frame ∧
           (s'.notice l).entries = (s.notice l).entries.replace e { e with sent := true } ∧
           (s'.notice l).nextSeq = (s.notice l).nextSeq) ∧
         (left = [] → offered = none → (s'.link l).tx = .free ∧ s'.notice l = s.notice l))) ∧
  (∀ (s : State) (l : Index) (r : Response),
     let q := (s.link l).respQ
     let now := s.respondNow l r
     let later := s.respondDeferred l r
     now.mute = s.mute ∧ s.othersSilent now l ∧ s.othersSilent later l ∧
     let placed (u : State) (o : RespOwner) : Prop :=
       (u.link l).respQ = q ++ [{ owner := o, resp := r }] ∧ u.notice l = s.notice l ∧
       (u.link l).tx = if (s.link l).tx = .free then .response ((q.map (·.resp)).headD r).frame else (s.link l).tx
     (q.length ≤ 3 → placed now (if s.isOpen l then .session else .none)) ∧
     (4 ≤ q.length →
       now = s.queueNotice l (.linkFault 1) ∧ (now.link l).respQ = q ∧ s.heard now l (if s.isOpen l then [.linkFault 1] else [])) ∧
     (s.isOpen l → later.mute = (s.leaveWindow l r.tag).mute ∧ placed later .session) ∧
     (¬ s.isOpen l → later = s))

/-! ### Target ports (chapter 9) -/

/-- A message of the target is well formed exactly when its fields hold defined values and its check byte agrees. A target-to-hub
message that fails R170's verification is discarded, and so is one that the link state does not take. A reply that no outstanding
exchange matches is discarded. -/
def Obligations.MessageVerified : Prop :=
  (∀ (t : Index) (flags number result kind check : Byte) (pc address : Addr) (w : Word) (data : Option Word),
     ((Instr.haltedReport t flags pc check).wellFormed ↔ flags &&& 0xFC = 0 ∧ check = crc8 (0x81 :: flags :: bytes24 pc)) ∧
     ((Instr.runningReport t check).wellFormed ↔ check = crc8 [0x82]) ∧
     ((Instr.svcGrant t check).wellFormed ↔ check = crc8 [0x83]) ∧
     ((Instr.accReply t number result w check).wellFormed ↔
       (result = 0 ∨ result = 1) ∧ check = crc8 (0x84 :: number :: result :: bytes32 w)) ∧
     ((Instr.ref t kind address data check).wellFormed ↔
       (kind = 0 ∧ data = none ∨ (kind = 1 ∨ kind = 2) ∧ data ≠ none) ∧
         check = crc8 (0x85 :: kind :: (bytes24 address ++ (data.map bytes32).getD [])))) ∧
  (∀ (s : State) (t : Index) (flags number result kind check : Byte) (pc address : Addr) (w : Word) (data : Option Word),
     (∀ c ∈ [Instr.haltedReport t flags pc check, .runningReport t check, .svcGrant t check, .accReply t number result w check,
         .ref t kind address data check],
       c.wellFormed = false ∨ (s.port t).link = .disabled ∨ (s.port t).link = .absent → exec c s = .next s) ∧
     (∀ c ∈ [Instr.svcGrant t check, .accReply t number result w check, .ref t kind address data check],
       (s.port t).link = .probing → exec c s = .next s)) ∧
  (∀ (s : State) (t : Index) (number result check : Byte) (data : Word),
     (s.port t).link ≠ .active ∨ (∀ x ∈ (s.acc t).exchange, x.number ≠ number) →
     exec (.accReply t number result data check) s = .next s)

/-- A message handed joins the end of the send list, but for an ATTN that finds 8 of its kind there; a run-control message becomes
outstanding with the timeout configured for it. A slot begins the oldest message of the send list; begun, RST_ON sets reset asserted
and RST_OFF clears it. With nothing to send the slot is idle, and while the port is disabled none begins. That a slot command finds no
slot on a disabled port is log entry 4. -/
def Obligations.PortSends : Prop :=
  (∀ (s : State) (t : Index) (m : PortMsg) (c : RcMsg) (h : Handle),
     ((∀ g, m ≠ .attn g) → s.hand t m = s.modPort t fun p => { p with sendList := p.sendList ++ [m] }) ∧
     (let attns := (s.port t).sendList.filter fun x => match x with | .attn _ => true | _ => false
      s.hand t (.attn h) =
       if attns.length < 8 then s.modPort t (fun p => { p with sendList := p.sendList ++ [.attn h] }) else s) ∧
     s.handRc t c = s.modPort t fun p =>
       { p with
         sendList := p.sendList ++ [c.msg]
         outstanding := some
           { msg := c
             timer := match c with
               | .stop => (s.cfg t).stop.toNat
               | .step => (s.cfg t).stop.toNat
               | .svcExitHold => (s.cfg t).stop.toNat
               | .run => (s.cfg t).run.toNat
               | .probe => (s.cfg t).run.toNat
               | .rstOff _ => (s.cfg t).run.toNat
               | .svcReq => (s.cfg t).grant.toNat } }) ∧
  (∀ (s : State) (t : Index) (m : PortMsg) (rest : List PortMsg) (flag : Bool),
     ((s.cfg t).portEnable = false → exec (.slotBegin t) s = .next s) ∧
     ((s.cfg t).portEnable = true →
       ((s.port t).sendList = [] → exec (.slotBegin t) s = .next (s.modPort t fun p => { p with slot := [] })) ∧
       ((s.port t).sendList = m :: rest →
         completes (.slotBegin t) s fun s' =>
           s' = (s.modPort t fun p =>
             { p with sendList := rest, slot := m.body ++ [crc8 m.body], resetAsserted := (s'.port t).resetAsserted }) ∧
           (m = .rstOn → (s'.port t).resetAsserted = true) ∧
           (m = .rstOff flag → (s'.port t).resetAsserted = false) ∧
           ((∀ f, m ≠ .rstOff f) → m ≠ .rstOn → (s'.port t).resetAsserted = (s.port t).resetAsserted))))

/-- After a report: one that answers RST_OFF turns the watch off, and on again where the demand is on; the first after an expiry on
RST_OFF turns it on where the demand is on; one that makes the port ACTIVE then sends the watch where demand and enable differ; any
other leaves the port as it is. The watch owed after an expiry on RST_OFF, which a detach leaves owed, is the reading of R46 in log
entry 11. The watch owed after an expiry on RST_OFF is the reading of R46 in log entry 11. -/
def Obligations.WatchAfterReport : Prop :=
  ∀ (s before : State) (t : Index),
    let on (x : State) : State := x.modPort t fun p => { p with sendList := p.sendList ++ [.watch true], watchEnable := true }
    let sent (x : State) : State :=
      x.modPort t fun p => { p with sendList := p.sendList ++ [.watch (s.demand t)], watchEnable := s.demand t }
    let paid := s.modPort t fun p => { p with watchOwed := false }
    let u := s.watchAfterReport before t
    let answers := before.outstandingMsg t = some (.rstOff true) ∨ before.outstandingMsg t = some (.rstOff false)
    let owed := (before.port t).watchOwed
    let attaches := (before.port t).link = .probing
    (answers →
      u = (let x := s.modPort t fun p => { p with watchEnable := false, watchOwed := false }
        if s.demand t then on x else x)) ∧
    (¬ answers → owed → s.demand t → u = on paid) ∧
    (¬ answers → owed → ¬ s.demand t → u = if attaches ∧ (s.port t).watchEnable then sent paid else paid) ∧
    (¬ answers → ¬ owed → u = if attaches ∧ (s.port t).watchEnable ≠ s.demand t then sent s else s)

/-! ### Port configuration and target reset (chapter 10) -/

/-- CONFIG, read form: an item above 6 is refused, and any other is answered with its value; nothing changes. -/
def Obligations.ConfigReadReturnsValue : Prop :=
  ∀ (s : State) (l t : Index) (tag item : Byte),
    s.requestOpen l tag →
    completes (.configRead l tag (indexByte t) item) s fun s' =>
      let c := s.cfg t
      let v : Byte := match item.toNat with
        | 0 => c.stop
        | 1 => c.run
        | 2 => c.grant
        | 3 => c.exchange
        | 4 => c.resetHold
        | 5 => flagByte c.intrusive
        | _ => flagByte c.portEnable
      s'.mute = (s.afterDelivery l).mute ∧ s.othersSilent s' l ∧
      s.replied s' l
        (if item.toNat ≤ 6 then { tag, status := .ok, kind := 0x50, payload := [item, v] }
         else { tag, status := .badOperand, kind := 0x50, payload := [] }) []

/-- CONFIG, setting form: an item above 6 is refused BAD_OPERAND whatever the session's role (check 2 of R185, before ROLE). Of the
supervisor, a value out of range is refused; a timeout, RESET_HOLD or INTRUSIVE_ENABLE is replaced and nothing else changes; the value
already held has no consequence. PORT_ENABLE set off takes the target away at once, and set on begins an attach where PRESENT is high;
the supervisor's OK follows. The answers of the detach come in the order of log entry 13 and leave the batch count (log entry 30), and
the OK follows them and the STATE notice (log entry 8). A message in its slot is left to be sent to its end (R171; log entry 32). -/
def Obligations.ConfigSetActs : Prop :=
  (∀ (s : State) (l t : Index) (tag item value : Byte),
     s.requestOpen l tag →
     let inRange := if item.toNat ≤ 4 then value ≠ 0 else value.toNat ≤ 1
     let gives (x : State) (r : Response) : Prop :=
       completes (.configSet l tag (indexByte t) item value) s fun s' =>
         s'.mute = x.mute ∧ s.othersSilent s' l ∧ s.replied s' l r []
     let ok : Response := { tag, status := .ok, kind := 0x50, payload := [item, value] }
     let set (f : PortConfig → PortConfig) : State := (s.afterDelivery l).modCfg t f
     let refused := gives (s.afterDelivery l) { tag, status := .badOperand, kind := 0x50, payload := [] }
     (6 < item.toNat → refused) ∧
     (s.isSupervisor l → ¬ inRange → refused) ∧
     (s.isSupervisor l → inRange →
       (item = 0 → gives (set fun c => { c with stop := value }) ok) ∧
       (item = 1 → gives (set fun c => { c with run := value }) ok) ∧
       (item = 2 → gives (set fun c => { c with grant := value }) ok) ∧
       (item = 3 → gives (set fun c => { c with exchange := value }) ok) ∧
       (item = 4 → gives (set fun c => { c with resetHold := value }) ok) ∧
       (item = 5 → gives (set fun c => { c with intrusive := value = 1 }) ok) ∧
       (item = 6 → value = flagByte (s.cfg t).portEnable → gives (s.afterDelivery l) ok))) ∧
  (∀ (s : State) (l t : Index) (tag : Byte),
     s.requestOpen l tag → s.isSupervisor l →
     let base := s.afterDelivery l
     let ok (v : Byte) : Response := { tag, status := .ok, kind := 0x50, payload := [6, v] }
     ((s.cfg t).portEnable = true →
       let off := base.modCfg t fun c => { c with portEnable := false }
       ((s.port t).link ≠ .active → completes (.configSet l tag (indexByte t) 6 0) s fun s' =>
         s'.mute = (off.modPort t fun p => { p with outstanding := none, sendList := [], link := .disabled }).mute ∧
           s.othersSilent s' l ∧ s.replied s' l (ok 0) []) ∧
       ((s.port t).link = .active → completes (.configSet l tag (indexByte t) 6 0) s fun s' =>
         let rs := s.detachAnswers t
         let bs : List NoticeBody := [.state t .detached (s.rc t).hold (s.rc t).lock none]
         s'.mute = (off.detachedEntry t .disabled).mute ∧ s.tellsOthers s' l t bs ∧
           (∀ n, n ≠ l → (s'.link n).respQ = (s.link n).respQ ++ (rs.filter fun x => x.1 == n && s.isOpen n).map
             fun x => { owner := .session, resp := x.2 }) ∧
           s.repliedAfter s' l .session ((rs.filter fun x => x.1 == l).map (·.2)) (ok 0) (if s.watches l t then bs else []))) ∧
     ((s.cfg t).portEnable = false →
       completes (.configSet l tag (indexByte t) 6 1) s fun s' =>
         let on := base.modCfg t fun c => { c with portEnable := true }
         s.othersSilent s' l ∧ s.replied s' l (ok 1) [] ∧
         s'.mute = (if (s.port t).present then
             on.modPort t fun p =>
               { p with
                 link := .probing, watchEnable := s.demand t
                 outstanding := some { msg := .probe, timer := (s.cfg t).run.toNat }
                 sendList := p.sendList ++ (if p.resetAsserted then [.rstOff true] else []) ++ [.watch (s.demand t), .probe] }
           else on.modPort t fun p => { p with link := .absent }).mute))

/-- An accepted TRESET fails the in-flight access, the step sequence and every waiter TARGET_RESET, removes SELF, empties the send list
before RST_ON joins it, and starts the hold time. One that finds DETACHED is refused. That an earlier TRESET is answered before the
rest is read from R188 (log entry 13), that one taken in RESETTING gives the watchers another STATE notice is log entry 20, and that
the failed access leaves the batch count is log entry 30. -/
def Obligations.TresetBeginsReset : Prop :=
  ∀ (s : State) (l t : Index) (tag : Byte),
    s.requestOpen l tag → s.windowOpen l → s.isSupervisor l →
    let r := s.rc t
    let flying := match (s.acc t).queue with | e :: _ => if e.inFlight then State.accessAnswer e .targetReset [] else [] | [] => []
    let rs := ((r.resetRec.map fun q => State.resetAnswer q .targetReset []).getD []) ++ flying ++
      ((r.stepSeq.map fun q => State.seqAnswer r q .targetReset).getD []) ++ State.allAnswers r .targetReset
    (r.run = .detached → completes (.treset l tag (indexByte t)) s fun s' =>
      s'.mute = (s.afterDelivery l).mute ∧ s.othersSilent s' l ∧
        s.replied s' l { tag, status := .detached, kind := 0x51, payload := [] } []) ∧
    (r.run ≠ .detached → completes (.treset l tag (indexByte t)) s fun s' =>
      s'.mute = ((((((s.afterDelivery l).joinWindow l tag).leaves rs).modAcc t fun a =>
          if a.inFlight then { a with queue := a.queue.tail, exchange := none } else a).modRc t fun x =>
          { x with
            run := .resetting, hold := x.hold.removeSelf, waiters := [], relDefer := false, stopCause := none, stepSeq := none
            resetRec := some { session := l, tag, discard := false, phase := .holding }
            resetTimer := some (s.cfg t).resetHold.toNat }).modPort t
          fun p => { p with outstanding := none, sendList := [.rstOn] }).mute ∧
      s.tells s' t [.state t .resetting r.hold.removeSelf r.lock none] ∧ s.answered s' rs)

/-- The reset hold timer hands RST_OFF, its hold flag set when somebody holds the target, under the run timer; a timer that does not
run has no expiry. Reports before RST_OFF is handed are discarded. After it a HALTED report ends the reset with cause RESET_HELD, or
SELF with SELF joining where the flag was clear, and a RUNNING report enters RUNNING or stops a held target; the TRESET is answered
first. That a timer that does not run has no expiry is log entry 4. The watch is dealt with after the report is taken (R182), the
waiters of a held target are answered together in list order (log entry 15), and the access queue is examined at the end, in the run
state left (log entry 14). -/
def Obligations.TargetResetEnds : Prop :=
  (∀ (s : State) (t : Index) (q : ResetRec),
     let flag := !(s.rc t).hold.isEmpty
     ((s.rc t).resetTimer = none → exec (.resetHoldExpiry t) s = .next s) ∧
     ((s.rc t).resetTimer.isSome → (s.rc t).resetRec = some q →
       exec (.resetHoldExpiry t) s = .next ((s.modRc t fun r =>
         { r with resetRec := some { q with phase := .released flag }, resetTimer := none }).modPort t fun p =>
         { p with
           outstanding := some { msg := .rstOff flag, timer := (s.cfg t).run.toNat }
           sendList := p.sendList ++ [.rstOff flag] }))) ∧
  (∀ (s : State) (t : Index) (flags check : Byte) (pc : Addr) (q : ResetRec) (flag : Bool),
     (s.port t).link = .active → (s.rc t).run = .resetting → (s.rc t).resetRec = some q →
     let r := s.rc t
     let halted := (Instr.haltedReport t flags pc check).wellFormed
     let running := (Instr.runningReport t check).wellFormed
     let hold := if flag then r.hold else r.hold.addSelf
     let cause : HaltCause := if flag then .resetHeld else .self
     let ends (p : List Byte) : List Answer := State.resetAnswer q .ok p
     let s1 (p : List Byte) : State := ((s.clearOutstanding t).leaves (ends p)).modRc t fun x => { x with resetRec := none, resetTimer := none }
     let haltPay : List Byte := [3, if flag then 5 else 4, 0]
     let runPay : List Byte := [if r.hold.isEmpty then 1 else 2, 0, 0]
     (q.phase = .holding → s.outstandingMsg t = none →
       (halted → exec (.haltedReport t flags pc check) s = .next s) ∧ (running → exec (.runningReport t check) s = .next s)) ∧
     (q.phase = .released flag → s.outstandingMsg t = some (.rstOff flag) →
       (halted → ∃ u : State, exec (.haltedReport t flags pc check) s = .next ((u.watchAfterReport s t).examine t) ∧
         u.mute = ((s1 haltPay).haltedEntry t hold cause pc).mute ∧ s.tells u t (State.haltNotices t r (s.acc t) hold cause pc) ∧
         s.answered u (ends haltPay ++ State.haltAnswers r hold)) ∧
       (running → ∃ u : State, exec (.runningReport t check) s = .next ((u.watchAfterReport s t).examine t) ∧
         u.mute = ((s1 runPay).runEntry t).mute ∧ s.tells u t (State.runNotices t r) ∧
         s.answered u (ends runPay ++ State.runAnswers r))))

/-! ### Hub reset and invariants -/

/-- A hub reset sets every block to its reset values, samples the straps, keeps the PRESENT lines, and begins an attach on each port
whose PRESENT is high; nothing is answered. The lines PRESENT are inputs and keep their levels (log entry 21). -/
def Obligations.HubResetSetsResetValues : Prop :=
  ∀ (s : State) (straps : Quad Straps),
    completes (.hubReset straps) s fun s' =>
      (∀ l, s'.link l = .reset (straps.get l) ∧ s'.session l = .reset (straps.get l) ∧ s'.notice l = .reset) ∧ s'.records = [] ∧
      (∀ t, s'.rc t = .reset ∧ s'.bank t = .all .free ∧ s'.acc t = .reset ∧ s'.cfg t = .reset ∧
        s'.port t = if (s.port t).present then
            { Port.reset true with
              link := .probing, outstanding := some { msg := .probe, timer := 5 }, sendList := [.watch false, .probe] }
          else .reset false)

/-- The invariants hold in State.reset, the state right after a hub reset with every strap pin and every PRESENT line low, which is the
model's choice (log entry 7). -/
def Obligations.InvariantsHoldAtReset : Prop :=
  State.reset.noticesKept ∧ State.reset.targetsCoherent ∧ State.reset.banksKept ∧ State.reset.windowKept

/-- Every step keeps the Notice Queues in order: at most 16 entries, consecutive numbers, OVERRUN last, empty where CLOSED. -/
def Obligations.StepKeepsNotices : Prop :=
  ∀ s s' : State, s.noticesKept → step s = .next s' → s'.noticesKept

/-- Every step keeps every target coherent: run state, link state, outstanding message, records present, hold set and access queue agree. -/
def Obligations.StepKeepsTargetsCoherent : Prop :=
  ∀ s s' : State, s.targetsCoherent → step s = .next s' → s'.targetsCoherent

/-- Every step keeps the Breakpoint Table and the banks in agreement: each record is subscribed to its comparator and to no other, under
its specification, and no two comparators of a bank share one. -/
def Obligations.StepKeepsBanks : Prop :=
  ∀ s s' : State, s.banksKept → step s = .next s' → s'.banksKept

/-- Every step keeps the windows: a session's outstanding tags are those the blocks owe it, at most 4 and all different, and its response
queue keeps a place for each, so that a deferred response is always placed (R164). Coherent targets are assumed. -/
def Obligations.StepKeepsWindow : Prop :=
  ∀ s s' : State, s.targetsCoherent → s.windowKept → step s = .next s' → s'.windowKept
end

