-- ==== Sys2Proof/Laws/State.lean ====
section
/-! SUPPORT. The state's updates: what a part reads as after each of them, and which parts an update leaves alone. -/

namespace Sys2Proof

namespace Quad

variable {α β : Type}

@[simp] theorem get_set_self (q : Quad α) (i : Index) (a : α) : (q.set i a).get i = a := by
  fin_cases i <;> rfl

theorem get_set_of_ne (q : Quad α) {i j : Index} (h : j ≠ i) (a : α) : (q.set i a).get j = q.get j := by
  fin_cases i <;> fin_cases j <;> first | rfl | exact absurd rfl h

theorem get_set (q : Quad α) (i j : Index) (a : α) : (q.set i a).get j = if j = i then a else q.get j := by
  by_cases h : j = i
  · subst h; simp
  · simp [h, get_set_of_ne q h]

@[simp] theorem get_modify_self (q : Quad α) (i : Index) (f : α → α) : (q.modify i f).get i = f (q.get i) :=
  get_set_self q i _

theorem get_modify_of_ne (q : Quad α) {i j : Index} (h : j ≠ i) (f : α → α) : (q.modify i f).get j = q.get j :=
  get_set_of_ne q h _

theorem get_modify (q : Quad α) (i j : Index) (f : α → α) :
    (q.modify i f).get j = if j = i then f (q.get i) else q.get j :=
  get_set q i j _

@[simp] theorem get_all (a : α) (i : Index) : (Quad.all a).get i = a := by
  fin_cases i <;> rfl

@[simp] theorem get_map (f : α → β) (q : Quad α) (i : Index) : (q.map f).get i = f (q.get i) := by
  fin_cases i <;> rfl

/-- Two groups of four are equal when they agree at every number. -/
theorem ext_get {p q : Quad α} (h : ∀ i, p.get i = q.get i) : p = q := by
  cases p; cases q
  have h0 := h 0; have h1 := h 1; have h2 := h 2; have h3 := h 3
  simp only [get] at h0 h1 h2 h3
  simp [h0, h1, h2, h3]

@[simp] theorem set_get (q : Quad α) (i : Index) : q.set i (q.get i) = q := by
  fin_cases i <;> rfl

@[simp] theorem set_set (q : Quad α) (i : Index) (a b : α) : (q.set i a).set i b = q.set i b := by
  fin_cases i <;> rfl

@[simp] theorem modify_modify (q : Quad α) (i : Index) (f g : α → α) :
    (q.modify i f).modify i g = q.modify i fun x => g (f x) := by
  simp [modify]

theorem set_comm (q : Quad α) {i j : Index} (h : i ≠ j) (a b : α) : (q.set i a).set j b = (q.set j b).set i a := by
  fin_cases i <;> fin_cases j <;> first | rfl | exact absurd rfl h

theorem modify_comm (q : Quad α) {i j : Index} (h : i ≠ j) (f g : α → α) :
    (q.modify i f).modify j g = (q.modify j g).modify i f := by
  simp [modify, get_set_of_ne _ h, get_set_of_ne _ h.symm, set_comm _ h]

/-- Two modifications of one thing commute when the functions do there. -/
theorem modify_comm_self (q : Quad α) (i : Index) (f g : α → α) (h : g (f (q.get i)) = f (g (q.get i))) :
    (q.modify i f).modify i g = (q.modify i g).modify i f := by
  simp [modify, h]

theorem modify_congr (q : Quad α) (i : Index) {f g : α → α} (h : f (q.get i) = g (q.get i)) : q.modify i f = q.modify i g := by
  simp [modify, h]

@[simp] theorem modify_id (q : Quad α) (i : Index) : q.modify i (fun x => x) = q := by
  simp [modify]

theorem map_modify (q : Quad α) (i : Index) (f : α → α) (g : α → β) (k : β → β) (h : ∀ x, g (f x) = k (g x)) :
    (q.modify i f).map g = (q.map g).modify i k := by
  fin_cases i <;> simp [modify, map, set, get, h]

/-- A modification that `g` does not see. -/
theorem map_modify_eq (q : Quad α) (i : Index) (f : α → α) (g : α → β) (h : g (f (q.get i)) = g (q.get i)) :
    (q.modify i f).map g = q.map g := by
  apply ext_get; intro j
  by_cases hj : j = i
  · subst hj; simp [h]
  · simp [get_modify_of_ne _ hj]

end Quad

/-- Every number is one of the four of `indices`. -/
@[simp] theorem mem_indices (i : Index) : i ∈ indices := by fin_cases i <;> decide

namespace Machine.State

variable (s : State) (l m n t u : Index)

/-! ### One lemma per field and update -/

section
variable (f : LinkUnit → LinkUnit)

@[simp] theorem modLink_sessions : (s.modLink l f).sessions = s.sessions := rfl
@[simp] theorem modLink_notices : (s.modLink l f).notices = s.notices := rfl
@[simp] theorem modLink_records : (s.modLink l f).records = s.records := rfl
@[simp] theorem modLink_targets : (s.modLink l f).targets = s.targets := rfl
@[simp] theorem modLink_sched : (s.modLink l f).sched = s.sched := rfl
@[simp] theorem modLink_pending : (s.modLink l f).pending = s.pending := rfl
@[simp] theorem modLink_session : (s.modLink l f).session m = s.session m := rfl
@[simp] theorem modLink_notice : (s.modLink l f).notice m = s.notice m := rfl
@[simp] theorem modLink_target : (s.modLink l f).target u = s.target u := rfl
@[simp] theorem modLink_rc : (s.modLink l f).rc u = s.rc u := rfl
@[simp] theorem modLink_bank : (s.modLink l f).bank u = s.bank u := rfl
@[simp] theorem modLink_acc : (s.modLink l f).acc u = s.acc u := rfl
@[simp] theorem modLink_port : (s.modLink l f).port u = s.port u := rfl
@[simp] theorem modLink_cfg : (s.modLink l f).cfg u = s.cfg u := rfl
@[simp] theorem modLink_link_self : (s.modLink l f).link l = f (s.link l) := by simp [link, modLink]
theorem modLink_link : (s.modLink l f).link m = if m = l then f (s.link l) else s.link m := by
  simp [link, modLink, Quad.get_modify]
theorem modLink_link_of_ne {m l : Index} (h : m ≠ l) : (s.modLink l f).link m = s.link m := by
  simp [link, modLink, Quad.get_modify, h]

end

section
variable (f : Session → Session)

@[simp] theorem modSession_links : (s.modSession n f).links = s.links := rfl
@[simp] theorem modSession_notices : (s.modSession n f).notices = s.notices := rfl
@[simp] theorem modSession_records : (s.modSession n f).records = s.records := rfl
@[simp] theorem modSession_targets : (s.modSession n f).targets = s.targets := rfl
@[simp] theorem modSession_sched : (s.modSession n f).sched = s.sched := rfl
@[simp] theorem modSession_pending : (s.modSession n f).pending = s.pending := rfl
@[simp] theorem modSession_link : (s.modSession n f).link m = s.link m := rfl
@[simp] theorem modSession_notice : (s.modSession n f).notice m = s.notice m := rfl
@[simp] theorem modSession_target : (s.modSession n f).target u = s.target u := rfl
@[simp] theorem modSession_rc : (s.modSession n f).rc u = s.rc u := rfl
@[simp] theorem modSession_bank : (s.modSession n f).bank u = s.bank u := rfl
@[simp] theorem modSession_acc : (s.modSession n f).acc u = s.acc u := rfl
@[simp] theorem modSession_port : (s.modSession n f).port u = s.port u := rfl
@[simp] theorem modSession_cfg : (s.modSession n f).cfg u = s.cfg u := rfl
@[simp] theorem modSession_session_self : (s.modSession n f).session n = f (s.session n) := by simp [session, modSession]
theorem modSession_session : (s.modSession n f).session m = if m = n then f (s.session n) else s.session m := by
  simp [session, modSession, Quad.get_modify]
theorem modSession_session_of_ne {m n : Index} (h : m ≠ n) : (s.modSession n f).session m = s.session m := by
  simp [session, modSession, Quad.get_modify, h]

end

section
variable (f : OpenSession → OpenSession)

@[simp] theorem modOpen_links : (s.modOpen n f).links = s.links := rfl
@[simp] theorem modOpen_notices : (s.modOpen n f).notices = s.notices := rfl
@[simp] theorem modOpen_records : (s.modOpen n f).records = s.records := rfl
@[simp] theorem modOpen_targets : (s.modOpen n f).targets = s.targets := rfl
@[simp] theorem modOpen_sched : (s.modOpen n f).sched = s.sched := rfl
@[simp] theorem modOpen_pending : (s.modOpen n f).pending = s.pending := rfl
@[simp] theorem modOpen_link : (s.modOpen n f).link m = s.link m := rfl
@[simp] theorem modOpen_notice : (s.modOpen n f).notice m = s.notice m := rfl
@[simp] theorem modOpen_target : (s.modOpen n f).target u = s.target u := rfl
@[simp] theorem modOpen_rc : (s.modOpen n f).rc u = s.rc u := rfl
@[simp] theorem modOpen_bank : (s.modOpen n f).bank u = s.bank u := rfl
@[simp] theorem modOpen_acc : (s.modOpen n f).acc u = s.acc u := rfl
@[simp] theorem modOpen_port : (s.modOpen n f).port u = s.port u := rfl
@[simp] theorem modOpen_cfg : (s.modOpen n f).cfg u = s.cfg u := rfl

end

section
variable (f : NoticeQueue → NoticeQueue)

@[simp] theorem modNotice_links : (s.modNotice n f).links = s.links := rfl
@[simp] theorem modNotice_sessions : (s.modNotice n f).sessions = s.sessions := rfl
@[simp] theorem modNotice_records : (s.modNotice n f).records = s.records := rfl
@[simp] theorem modNotice_targets : (s.modNotice n f).targets = s.targets := rfl
@[simp] theorem modNotice_sched : (s.modNotice n f).sched = s.sched := rfl
@[simp] theorem modNotice_pending : (s.modNotice n f).pending = s.pending := rfl
@[simp] theorem modNotice_link : (s.modNotice n f).link m = s.link m := rfl
@[simp] theorem modNotice_session : (s.modNotice n f).session m = s.session m := rfl
@[simp] theorem modNotice_target : (s.modNotice n f).target u = s.target u := rfl
@[simp] theorem modNotice_rc : (s.modNotice n f).rc u = s.rc u := rfl
@[simp] theorem modNotice_bank : (s.modNotice n f).bank u = s.bank u := rfl
@[simp] theorem modNotice_acc : (s.modNotice n f).acc u = s.acc u := rfl
@[simp] theorem modNotice_port : (s.modNotice n f).port u = s.port u := rfl
@[simp] theorem modNotice_cfg : (s.modNotice n f).cfg u = s.cfg u := rfl
@[simp] theorem modNotice_notice_self : (s.modNotice n f).notice n = f (s.notice n) := by simp [notice, modNotice]
theorem modNotice_notice : (s.modNotice n f).notice m = if m = n then f (s.notice n) else s.notice m := by
  simp [notice, modNotice, Quad.get_modify]
theorem modNotice_notice_of_ne {m n : Index} (h : m ≠ n) : (s.modNotice n f).notice m = s.notice m := by
  simp [notice, modNotice, Quad.get_modify, h]

end

section
variable (f : Target → Target)

@[simp] theorem modTarget_links : (s.modTarget t f).links = s.links := rfl
@[simp] theorem modTarget_sessions : (s.modTarget t f).sessions = s.sessions := rfl
@[simp] theorem modTarget_notices : (s.modTarget t f).notices = s.notices := rfl
@[simp] theorem modTarget_records : (s.modTarget t f).records = s.records := rfl
@[simp] theorem modTarget_sched : (s.modTarget t f).sched = s.sched := rfl
@[simp] theorem modTarget_pending : (s.modTarget t f).pending = s.pending := rfl
@[simp] theorem modTarget_link : (s.modTarget t f).link m = s.link m := rfl
@[simp] theorem modTarget_session : (s.modTarget t f).session m = s.session m := rfl
@[simp] theorem modTarget_notice : (s.modTarget t f).notice m = s.notice m := rfl
@[simp] theorem modTarget_target_self : (s.modTarget t f).target t = f (s.target t) := by simp [target, modTarget]
theorem modTarget_target : (s.modTarget t f).target u = if u = t then f (s.target t) else s.target u := by
  simp [target, modTarget, Quad.get_modify]
theorem modTarget_target_of_ne {u t : Index} (h : u ≠ t) : (s.modTarget t f).target u = s.target u := by
  simp [target, modTarget, Quad.get_modify, h]

end

section
variable (f : RunControl → RunControl)

@[simp] theorem modRc_links : (s.modRc t f).links = s.links := rfl
@[simp] theorem modRc_sessions : (s.modRc t f).sessions = s.sessions := rfl
@[simp] theorem modRc_notices : (s.modRc t f).notices = s.notices := rfl
@[simp] theorem modRc_records : (s.modRc t f).records = s.records := rfl
@[simp] theorem modRc_sched : (s.modRc t f).sched = s.sched := rfl
@[simp] theorem modRc_pending : (s.modRc t f).pending = s.pending := rfl
@[simp] theorem modRc_link : (s.modRc t f).link m = s.link m := rfl
@[simp] theorem modRc_session : (s.modRc t f).session m = s.session m := rfl
@[simp] theorem modRc_notice : (s.modRc t f).notice m = s.notice m := rfl
@[simp] theorem modRc_rc_self : (s.modRc t f).rc t = f (s.rc t) := by simp [rc, modRc]
theorem modRc_rc : (s.modRc t f).rc u = if u = t then f (s.rc t) else s.rc u := by
  by_cases h : u = t <;> simp [rc, modRc, modTarget_target, h]
theorem modRc_rc_of_ne {u t : Index} (h : u ≠ t) : (s.modRc t f).rc u = s.rc u := by
  simp [modRc_rc, h]
@[simp] theorem modRc_bank : (s.modRc t f).bank u = s.bank u := by
  by_cases h : u = t <;> simp [bank, modRc, modTarget_target, h]
@[simp] theorem modRc_acc : (s.modRc t f).acc u = s.acc u := by
  by_cases h : u = t <;> simp [acc, modRc, modTarget_target, h]
@[simp] theorem modRc_port : (s.modRc t f).port u = s.port u := by
  by_cases h : u = t <;> simp [port, modRc, modTarget_target, h]
@[simp] theorem modRc_cfg : (s.modRc t f).cfg u = s.cfg u := by
  by_cases h : u = t <;> simp [cfg, modRc, modTarget_target, h]
@[simp] theorem modRc_target_self : (s.modRc t f).target t = { s.target t with rc := f (s.rc t) } := by
  simp [modRc, rc]
theorem modRc_target_of_ne {u t : Index} (h : u ≠ t) : (s.modRc t f).target u = s.target u := by
  simp [modRc, modTarget_target, h]

end

section
variable (f : Quad Comparator → Quad Comparator)

@[simp] theorem modBank_links : (s.modBank t f).links = s.links := rfl
@[simp] theorem modBank_sessions : (s.modBank t f).sessions = s.sessions := rfl
@[simp] theorem modBank_notices : (s.modBank t f).notices = s.notices := rfl
@[simp] theorem modBank_records : (s.modBank t f).records = s.records := rfl
@[simp] theorem modBank_sched : (s.modBank t f).sched = s.sched := rfl
@[simp] theorem modBank_pending : (s.modBank t f).pending = s.pending := rfl
@[simp] theorem modBank_link : (s.modBank t f).link m = s.link m := rfl
@[simp] theorem modBank_session : (s.modBank t f).session m = s.session m := rfl
@[simp] theorem modBank_notice : (s.modBank t f).notice m = s.notice m := rfl
@[simp] theorem modBank_bank_self : (s.modBank t f).bank t = f (s.bank t) := by simp [bank, modBank]
theorem modBank_bank : (s.modBank t f).bank u = if u = t then f (s.bank t) else s.bank u := by
  by_cases h : u = t <;> simp [bank, modBank, modTarget_target, h]
theorem modBank_bank_of_ne {u t : Index} (h : u ≠ t) : (s.modBank t f).bank u = s.bank u := by
  simp [modBank_bank, h]
@[simp] theorem modBank_rc : (s.modBank t f).rc u = s.rc u := by
  by_cases h : u = t <;> simp [rc, modBank, modTarget_target, h]
@[simp] theorem modBank_acc : (s.modBank t f).acc u = s.acc u := by
  by_cases h : u = t <;> simp [acc, modBank, modTarget_target, h]
@[simp] theorem modBank_port : (s.modBank t f).port u = s.port u := by
  by_cases h : u = t <;> simp [port, modBank, modTarget_target, h]
@[simp] theorem modBank_cfg : (s.modBank t f).cfg u = s.cfg u := by
  by_cases h : u = t <;> simp [cfg, modBank, modTarget_target, h]
@[simp] theorem modBank_target_self : (s.modBank t f).target t = { s.target t with bank := f (s.bank t) } := by
  simp [modBank, bank]
theorem modBank_target_of_ne {u t : Index} (h : u ≠ t) : (s.modBank t f).target u = s.target u := by
  simp [modBank, modTarget_target, h]

end

section
variable (f : AccessEngine → AccessEngine)

@[simp] theorem modAcc_links : (s.modAcc t f).links = s.links := rfl
@[simp] theorem modAcc_sessions : (s.modAcc t f).sessions = s.sessions := rfl
@[simp] theorem modAcc_notices : (s.modAcc t f).notices = s.notices := rfl
@[simp] theorem modAcc_records : (s.modAcc t f).records = s.records := rfl
@[simp] theorem modAcc_sched : (s.modAcc t f).sched = s.sched := rfl
@[simp] theorem modAcc_pending : (s.modAcc t f).pending = s.pending := rfl
@[simp] theorem modAcc_link : (s.modAcc t f).link m = s.link m := rfl
@[simp] theorem modAcc_session : (s.modAcc t f).session m = s.session m := rfl
@[simp] theorem modAcc_notice : (s.modAcc t f).notice m = s.notice m := rfl
@[simp] theorem modAcc_acc_self : (s.modAcc t f).acc t = f (s.acc t) := by simp [acc, modAcc]
theorem modAcc_acc : (s.modAcc t f).acc u = if u = t then f (s.acc t) else s.acc u := by
  by_cases h : u = t <;> simp [acc, modAcc, modTarget_target, h]
theorem modAcc_acc_of_ne {u t : Index} (h : u ≠ t) : (s.modAcc t f).acc u = s.acc u := by
  simp [modAcc_acc, h]
@[simp] theorem modAcc_rc : (s.modAcc t f).rc u = s.rc u := by
  by_cases h : u = t <;> simp [rc, modAcc, modTarget_target, h]
@[simp] theorem modAcc_bank : (s.modAcc t f).bank u = s.bank u := by
  by_cases h : u = t <;> simp [bank, modAcc, modTarget_target, h]
@[simp] theorem modAcc_port : (s.modAcc t f).port u = s.port u := by
  by_cases h : u = t <;> simp [port, modAcc, modTarget_target, h]
@[simp] theorem modAcc_cfg : (s.modAcc t f).cfg u = s.cfg u := by
  by_cases h : u = t <;> simp [cfg, modAcc, modTarget_target, h]
@[simp] theorem modAcc_target_self : (s.modAcc t f).target t = { s.target t with acc := f (s.acc t) } := by
  simp [modAcc, acc]
theorem modAcc_target_of_ne {u t : Index} (h : u ≠ t) : (s.modAcc t f).target u = s.target u := by
  simp [modAcc, modTarget_target, h]

end

section
variable (f : Port → Port)

@[simp] theorem modPort_links : (s.modPort t f).links = s.links := rfl
@[simp] theorem modPort_sessions : (s.modPort t f).sessions = s.sessions := rfl
@[simp] theorem modPort_notices : (s.modPort t f).notices = s.notices := rfl
@[simp] theorem modPort_records : (s.modPort t f).records = s.records := rfl
@[simp] theorem modPort_sched : (s.modPort t f).sched = s.sched := rfl
@[simp] theorem modPort_pending : (s.modPort t f).pending = s.pending := rfl
@[simp] theorem modPort_link : (s.modPort t f).link m = s.link m := rfl
@[simp] theorem modPort_session : (s.modPort t f).session m = s.session m := rfl
@[simp] theorem modPort_notice : (s.modPort t f).notice m = s.notice m := rfl
@[simp] theorem modPort_port_self : (s.modPort t f).port t = f (s.port t) := by simp [port, modPort]
theorem modPort_port : (s.modPort t f).port u = if u = t then f (s.port t) else s.port u := by
  by_cases h : u = t <;> simp [port, modPort, modTarget_target, h]
theorem modPort_port_of_ne {u t : Index} (h : u ≠ t) : (s.modPort t f).port u = s.port u := by
  simp [modPort_port, h]
@[simp] theorem modPort_rc : (s.modPort t f).rc u = s.rc u := by
  by_cases h : u = t <;> simp [rc, modPort, modTarget_target, h]
@[simp] theorem modPort_bank : (s.modPort t f).bank u = s.bank u := by
  by_cases h : u = t <;> simp [bank, modPort, modTarget_target, h]
@[simp] theorem modPort_acc : (s.modPort t f).acc u = s.acc u := by
  by_cases h : u = t <;> simp [acc, modPort, modTarget_target, h]
@[simp] theorem modPort_cfg : (s.modPort t f).cfg u = s.cfg u := by
  by_cases h : u = t <;> simp [cfg, modPort, modTarget_target, h]
@[simp] theorem modPort_target_self : (s.modPort t f).target t = { s.target t with port := f (s.port t) } := by
  simp [modPort, port]
theorem modPort_target_of_ne {u t : Index} (h : u ≠ t) : (s.modPort t f).target u = s.target u := by
  simp [modPort, modTarget_target, h]

end

section
variable (f : PortConfig → PortConfig)

@[simp] theorem modCfg_links : (s.modCfg t f).links = s.links := rfl
@[simp] theorem modCfg_sessions : (s.modCfg t f).sessions = s.sessions := rfl
@[simp] theorem modCfg_notices : (s.modCfg t f).notices = s.notices := rfl
@[simp] theorem modCfg_records : (s.modCfg t f).records = s.records := rfl
@[simp] theorem modCfg_sched : (s.modCfg t f).sched = s.sched := rfl
@[simp] theorem modCfg_pending : (s.modCfg t f).pending = s.pending := rfl
@[simp] theorem modCfg_link : (s.modCfg t f).link m = s.link m := rfl
@[simp] theorem modCfg_session : (s.modCfg t f).session m = s.session m := rfl
@[simp] theorem modCfg_notice : (s.modCfg t f).notice m = s.notice m := rfl
@[simp] theorem modCfg_cfg_self : (s.modCfg t f).cfg t = f (s.cfg t) := by simp [cfg, modCfg]
theorem modCfg_cfg : (s.modCfg t f).cfg u = if u = t then f (s.cfg t) else s.cfg u := by
  by_cases h : u = t <;> simp [cfg, modCfg, modTarget_target, h]
theorem modCfg_cfg_of_ne {u t : Index} (h : u ≠ t) : (s.modCfg t f).cfg u = s.cfg u := by
  simp [modCfg_cfg, h]
@[simp] theorem modCfg_rc : (s.modCfg t f).rc u = s.rc u := by
  by_cases h : u = t <;> simp [rc, modCfg, modTarget_target, h]
@[simp] theorem modCfg_bank : (s.modCfg t f).bank u = s.bank u := by
  by_cases h : u = t <;> simp [bank, modCfg, modTarget_target, h]
@[simp] theorem modCfg_acc : (s.modCfg t f).acc u = s.acc u := by
  by_cases h : u = t <;> simp [acc, modCfg, modTarget_target, h]
@[simp] theorem modCfg_port : (s.modCfg t f).port u = s.port u := by
  by_cases h : u = t <;> simp [port, modCfg, modTarget_target, h]
@[simp] theorem modCfg_target_self : (s.modCfg t f).target t = { s.target t with cfg := f (s.cfg t) } := by
  simp [modCfg, cfg]
theorem modCfg_target_of_ne {u t : Index} (h : u ≠ t) : (s.modCfg t f).target u = s.target u := by
  simp [modCfg, modTarget_target, h]

end

/-! ### An update is what it does to the part that stands -/

theorem modTarget_congr {f g : Target → Target} (h : f (s.target t) = g (s.target t)) : s.modTarget t f = s.modTarget t g := by
  unfold modTarget
  rw [Quad.modify_congr _ _ h]

theorem modRc_congr {f g : RunControl → RunControl} (h : f (s.rc t) = g (s.rc t)) : s.modRc t f = s.modRc t g :=
  modTarget_congr s t (congrArg (fun r => { s.target t with rc := r }) h)

theorem modAcc_congr {f g : AccessEngine → AccessEngine} (h : f (s.acc t) = g (s.acc t)) : s.modAcc t f = s.modAcc t g :=
  modTarget_congr s t (congrArg (fun a => { s.target t with acc := a }) h)

theorem modPort_congr {f g : Port → Port} (h : f (s.port t) = g (s.port t)) : s.modPort t f = s.modPort t g :=
  modTarget_congr s t (congrArg (fun p => { s.target t with port := p }) h)

theorem modCfg_congr {f g : PortConfig → PortConfig} (h : f (s.cfg t) = g (s.cfg t)) : s.modCfg t f = s.modCfg t g :=
  modTarget_congr s t (congrArg (fun c => { s.target t with cfg := c }) h)

theorem modLink_congr {f g : LinkUnit → LinkUnit} (h : f (s.link l) = g (s.link l)) : s.modLink l f = s.modLink l g := by
  unfold modLink
  rw [Quad.modify_congr _ _ h]

/-! ### Two updates of one part are one -/

@[simp] theorem modLink_modLink (f g : LinkUnit → LinkUnit) : (s.modLink l f).modLink l g = s.modLink l fun x => g (f x) := by
  simp [modLink]

@[simp] theorem modNotice_modNotice (f g : NoticeQueue → NoticeQueue) :
    (s.modNotice n f).modNotice n g = s.modNotice n fun x => g (f x) := by
  simp [modNotice]

@[simp] theorem modRc_modRc (f g : RunControl → RunControl) : (s.modRc t f).modRc t g = s.modRc t fun x => g (f x) := by
  simp [modRc, modTarget]

@[simp] theorem modAcc_modAcc (f g : AccessEngine → AccessEngine) : (s.modAcc t f).modAcc t g = s.modAcc t fun x => g (f x) := by
  simp [modAcc, modTarget]

@[simp] theorem modPort_modPort (f g : Port → Port) : (s.modPort t f).modPort t g = s.modPort t fun x => g (f x) := by
  simp [modPort, modTarget]

@[simp] theorem modOpen_modOpen (f g : OpenSession → OpenSession) : (s.modOpen n f).modOpen n g = s.modOpen n fun x => g (f x) := by
  simp only [modOpen, modSession, Quad.modify_modify]
  congr 1
  exact Quad.modify_congr _ _ (by cases (s.sessions.get n).current <;> rfl)

/-! ### Updates of different parts commute -/

theorem modRc_modPort (f : RunControl → RunControl) (g : Port → Port) :
    (s.modRc t f).modPort u g = (s.modPort u g).modRc t f := by
  by_cases h : u = t
  · subst h; simp [modRc, modPort, modTarget]
  · simp [modRc, modPort, modTarget, Quad.modify_comm _ (Ne.symm h)]

theorem modRc_modAcc (f : RunControl → RunControl) (g : AccessEngine → AccessEngine) :
    (s.modRc t f).modAcc u g = (s.modAcc u g).modRc t f := by
  by_cases h : u = t
  · subst h; simp [modRc, modAcc, modTarget]
  · simp [modRc, modAcc, modTarget, Quad.modify_comm _ (Ne.symm h)]

theorem modAcc_modPort (f : AccessEngine → AccessEngine) (g : Port → Port) :
    (s.modAcc t f).modPort u g = (s.modPort u g).modAcc t f := by
  by_cases h : u = t
  · subst h; simp [modAcc, modPort, modTarget]
  · simp [modAcc, modPort, modTarget, Quad.modify_comm _ (Ne.symm h)]

theorem modOpen_modRc (f : OpenSession → OpenSession) (g : RunControl → RunControl) :
    (s.modOpen n f).modRc t g = (s.modRc t g).modOpen n f := rfl

theorem modOpen_modAcc (f : OpenSession → OpenSession) (g : AccessEngine → AccessEngine) :
    (s.modOpen n f).modAcc t g = (s.modAcc t g).modOpen n f := rfl

theorem modOpen_modPort (f : OpenSession → OpenSession) (g : Port → Port) :
    (s.modOpen n f).modPort t g = (s.modPort t g).modOpen n f := rfl

theorem modLink_modRc (f : LinkUnit → LinkUnit) (g : RunControl → RunControl) :
    (s.modLink l f).modRc t g = (s.modRc t g).modLink l f := rfl

theorem modLink_modPort (f : LinkUnit → LinkUnit) (g : Port → Port) :
    (s.modLink l f).modPort t g = (s.modPort t g).modLink l f := rfl

theorem modLink_modAcc (f : LinkUnit → LinkUnit) (g : AccessEngine → AccessEngine) :
    (s.modLink l f).modAcc t g = (s.modAcc t g).modLink l f := rfl

theorem modLink_modOpen (f : LinkUnit → LinkUnit) (g : OpenSession → OpenSession) :
    (s.modLink l f).modOpen n g = (s.modOpen n g).modLink l f := rfl

theorem modNotice_modLink (f : NoticeQueue → NoticeQueue) (g : LinkUnit → LinkUnit) :
    (s.modNotice n f).modLink l g = (s.modLink l g).modNotice n f := rfl

/-! ### What is read through a function -/

/-- A change of an open session's fields does not open or close it. -/
@[simp] theorem isOpen_modOpen (f : OpenSession → OpenSession) : (s.modOpen n f).isOpen m = s.isOpen m := by
  by_cases h : m = n
  · subst h; cases hc : (s.session m).current <;> simp_all [isOpen, modOpen]
  · simp [isOpen, modOpen, modSession_session, h]

/-- What is read through a function depends on the session records alone. -/
theorem isOpen_congr {s s' : State} (h : s'.sessions = s.sessions) (n : Index) : s'.isOpen n = s.isOpen n := by
  simp [isOpen, session, h]

theorem watches_congr {s s' : State} (h : s'.sessions = s.sessions) (n t : Index) : s'.watches n t = s.watches n t := by
  simp [watches, session, h]

theorem role?_congr {s s' : State} (h : s'.sessions = s.sessions) (n : Index) : s'.role? n = s.role? n := by
  simp [role?, session, h]

theorem tags_congr {s s' : State} (h : s'.sessions = s.sessions) (n : Index) : s'.tags n = s.tags n := by
  simp [tags, session, h]

theorem stateBody_congr {s s' : State} (h : s'.targets = s.targets) (t : Index) : s'.stateBody t = s.stateBody t := by
  unfold stateBody rc target; rw [h]

theorem demand_congr {s s' : State} (h : ∀ t, s'.bank t = s.bank t) (t : Index) : s'.demand t = s.demand t := by
  simp [demand, boundCount, h]

/-! ### The window (R121) -/

@[simp] theorem joinWindow_sessions_ne {s : State} {m n : Index} (h : m ≠ n) (tag : Byte) :
    (s.joinWindow n tag).session m = s.session m := modSession_session_of_ne s _ h

theorem tags_modOpen_self (f : OpenSession → OpenSession) :
    (s.modOpen n f).tags n = match (s.session n).current with | some o => (f o).tags | none => [] := by
  cases hc : (s.session n).current <;> simp [tags, modOpen, hc]

theorem tags_joinWindow (tag : Byte) (h : s.isOpen n) : (s.joinWindow n tag).tags n = s.tags n ++ [tag] := by
  cases hc : (s.session n).current <;> simp_all [isOpen, tags, joinWindow, modOpen]

theorem tags_leaveWindow (tag : Byte) : (s.leaveWindow n tag).tags n = (s.tags n).erase tag := by
  cases hc : (s.session n).current <;> simp [tags, leaveWindow, modOpen, hc]

end Machine.State

end Sys2Proof
end

