-- ==== Sys2Proof/Laws/Messages.lean ====
section
/-! SUPPORT. The outgoing side of the hub: what the arbiter, a notice handed and a response do, once for each. Each leaves `mute` as it
was (a deferred response apart, which leaves the window), and `Sends` says what it puts into the queues. -/

namespace Sys2Proof.Machine

/-! ### Notice queues -/

namespace NoticeQueue

theorem contents_nil_iff (q : NoticeQueue) : q.contents.1 = [] ↔ q.entries = [] := by simp [contents]

/-- Setting a sent flag changes no content. -/
@[simp] theorem map_markSent (es : List NoticeEntry) :
    (markSent es).map (fun e => (e.seq, e.body)) = es.map fun e => (e.seq, e.body) := by
  induction es with
  | nil => rfl
  | cons e es ih =>
    unfold markSent
    split <;> simp_all

@[simp] theorem contents_markSent (q : NoticeQueue) : ({ q with entries := markSent q.entries } : NoticeQueue).contents = q.contents := by
  simp [contents]

@[simp] theorem map_unsend (older : Bool) (es : List NoticeEntry) :
    (unsend older es).map (fun e => (e.seq, e.body)) = es.map fun e => (e.seq, e.body) := by
  induction es generalizing older with
  | nil => rfl
  | cons e es ih => simp [unsend, ih]

/-- A REPLAY removes and renumbers nothing, and changes no payload (R140). -/
@[simp] theorem contents_unsend (q : NoticeQueue) : ({ q with entries := unsend false q.entries } : NoticeQueue).contents = q.contents := by
  simp [contents]

/-- After a REPLAY no entry is sent, and none that kept its count counts again (R140). -/
theorem of_mem_unsend {older : Bool} {es : List NoticeEntry} {x : NoticeEntry} (h : x ∈ unsend older es) :
    x.sent = false ∧ ∃ e ∈ es, x.seq = e.seq ∧ x.body = e.body ∧ (e.keepsCount = true → x.keepsCount = true) := by
  induction es generalizing older with
  | nil => simp [unsend] at h
  | cons e es ih =>
    rcases List.mem_cons.1 h with rfl | h
    · exact ⟨rfl, e, by simp, rfl, rfl, by simp +contextual⟩
    · obtain ⟨h1, y, hy, h2⟩ := ih h
      exact ⟨h1, y, List.mem_cons_of_mem _ hy, h2⟩

theorem hasOverrun_eq (q : NoticeQueue) : q.hasOverrun = q.contents.1.any fun x => x.2 == .overrun := by
  simp [hasOverrun, contents, List.any_map, Function.comp_def]

theorem length_eq (q : NoticeQueue) : q.entries.length = q.contents.1.length := by simp [contents]

theorem contents_append (q : NoticeQueue) (b : NoticeBody) :
    (q.append b).contents = (q.contents.1 ++ [(q.contents.2, b)], q.contents.2 + 1) := by
  simp [contents, append]

/-- What a queue does with a notice that is not a LINK_FAULT depends on its contents alone. -/
theorem contents_take_congr {q q' : NoticeQueue} {b : NoticeBody} (hb : b.isFault = false) (h : q.contents = q'.contents) :
    (q.take b).contents = (q'.take b).contents := by
  have ho : q.hasOverrun = q'.hasOverrun := by rw [hasOverrun_eq, hasOverrun_eq, h]
  have hl : q.entries.length = q'.entries.length := by rw [length_eq, length_eq, h]
  unfold take
  rw [ho, hl]
  simp only [hb, Bool.false_and, Bool.false_eq_true, if_false]
  split
  · exact h
  · split <;> rw [contents_append, contents_append, h]

theorem contents_foldl_take_congr {bs : List NoticeBody} (hb : ∀ b ∈ bs, b.isFault = false) :
    ∀ {q q' : NoticeQueue}, q.contents = q'.contents → (bs.foldl take q).contents = (bs.foldl take q').contents := by
  induction bs with
  | nil => intro q q' h; exact h
  | cons b bs ih =>
    intro q q' h
    exact ih (fun x hx => hb x (List.mem_cons_of_mem _ hx)) (contents_take_congr (hb b List.mem_cons_self) h)

end NoticeQueue

@[simp] theorem LinkUnit.mute_mute (u : LinkUnit) : u.mute.mute = u.mute := rfl

namespace State

variable (s : State) (l m n t : Index)

/-! ### The state without its outgoing queues -/

@[simp] theorem mute_mute : s.mute.mute = s.mute := by
  simp only [mute]; congr 1

@[simp] theorem mute_sessions : s.mute.sessions = s.sessions := rfl
@[simp] theorem mute_records : s.mute.records = s.records := rfl
@[simp] theorem mute_targets : s.mute.targets = s.targets := rfl
@[simp] theorem mute_sched : s.mute.sched = s.sched := rfl
@[simp] theorem mute_pending : s.mute.pending = s.pending := rfl
@[simp] theorem mute_rc : s.mute.rc t = s.rc t := rfl
@[simp] theorem mute_bank : s.mute.bank t = s.bank t := rfl
@[simp] theorem mute_acc : s.mute.acc t = s.acc t := rfl
@[simp] theorem mute_port : s.mute.port t = s.port t := rfl
@[simp] theorem mute_cfg : s.mute.cfg t = s.cfg t := rfl
@[simp] theorem mute_isOpen : s.mute.isOpen n = s.isOpen n := rfl
@[simp] theorem mute_watches : s.mute.watches n t = s.watches n t := rfl
@[simp] theorem mute_link : s.mute.link l = (s.link l).mute := by simp [mute, link]

/-- Two states that agree outside the outgoing queues agree on every block's records. -/
theorem parts_of_mute {s s' : State} (h : s'.mute = s.mute) :
    s'.sessions = s.sessions ∧ s'.records = s.records ∧ s'.targets = s.targets ∧ s'.sched = s.sched ∧ s'.pending = s.pending ∧
      ∀ l, (s'.link l).mute = (s.link l).mute :=
  ⟨by rw [← mute_sessions, h, mute_sessions], by rw [← mute_records, h, mute_records], by rw [← mute_targets, h, mute_targets],
    by rw [← mute_sched, h, mute_sched], by rw [← mute_pending, h, mute_pending], fun l => by rw [← mute_link, ← mute_link, h]⟩

theorem rc_of_mute {s s' : State} (h : s'.mute = s.mute) (t : Index) : s'.rc t = s.rc t := by rw [← mute_rc, h, mute_rc]
theorem acc_of_mute {s s' : State} (h : s'.mute = s.mute) (t : Index) : s'.acc t = s.acc t := by rw [← mute_acc, h, mute_acc]
theorem port_of_mute {s s' : State} (h : s'.mute = s.mute) (t : Index) : s'.port t = s.port t := by rw [← mute_port, h, mute_port]
theorem bank_of_mute {s s' : State} (h : s'.mute = s.mute) (t : Index) : s'.bank t = s.bank t := by rw [← mute_bank, h, mute_bank]
theorem cfg_of_mute {s s' : State} (h : s'.mute = s.mute) (t : Index) : s'.cfg t = s.cfg t := by rw [← mute_cfg, h, mute_cfg]
theorem isOpen_of_mute {s s' : State} (h : s'.mute = s.mute) (n : Index) : s'.isOpen n = s.isOpen n := by
  rw [← mute_isOpen, h, mute_isOpen]
theorem watches_of_mute {s s' : State} (h : s'.mute = s.mute) (n t : Index) : s'.watches n t = s.watches n t := by
  rw [← mute_watches, h, mute_watches]

@[simp] theorem mute_modSession (f : Session → Session) : (s.modSession n f).mute = s.mute.modSession n f := rfl
@[simp] theorem mute_modOpen (f : OpenSession → OpenSession) : (s.modOpen n f).mute = s.mute.modOpen n f := rfl
@[simp] theorem mute_modTarget (f : Target → Target) : (s.modTarget t f).mute = s.mute.modTarget t f := rfl
@[simp] theorem mute_modRc (f : RunControl → RunControl) : (s.modRc t f).mute = s.mute.modRc t f := rfl
@[simp] theorem mute_modBank (f : Quad Comparator → Quad Comparator) : (s.modBank t f).mute = s.mute.modBank t f := rfl
@[simp] theorem mute_modAcc (f : AccessEngine → AccessEngine) : (s.modAcc t f).mute = s.mute.modAcc t f := rfl
@[simp] theorem mute_modPort (f : Port → Port) : (s.modPort t f).mute = s.mute.modPort t f := rfl
@[simp] theorem mute_modCfg (f : PortConfig → PortConfig) : (s.modCfg t f).mute = s.mute.modCfg t f := rfl
@[simp] theorem mute_modNotice (f : NoticeQueue → NoticeQueue) : (s.modNotice n f).mute = s.mute := rfl
@[simp] theorem mute_joinWindow (tag : Byte) : (s.joinWindow n tag).mute = s.mute.joinWindow n tag := rfl
@[simp] theorem mute_leaveWindow (tag : Byte) : (s.leaveWindow n tag).mute = s.mute.leaveWindow n tag := rfl

/-- A change of a link's response queue and transmitter is not seen by `mute`. -/
theorem mute_modLink_queue {f : LinkUnit → LinkUnit} (h : (f (s.link l)).mute = (s.link l).mute) : (s.modLink l f).mute = s.mute := by
  simp only [mute, modLink]
  rw [Quad.map_modify_eq _ _ _ _ h]

/-- A change of the rest of a link is made to the muted link. -/
theorem mute_modLink {f : LinkUnit → LinkUnit} (h : ∀ u, (f u).mute = f u.mute) : (s.modLink l f).mute = s.mute.modLink l f := by
  simp only [mute, modLink]
  rw [Quad.map_modify _ _ _ _ f h]

@[simp] theorem mute_hand (x : PortMsg) : (s.hand t x).mute = s.mute.hand t x := rfl
@[simp] theorem mute_handRc (x : RcMsg) : (s.handRc t x).mute = s.mute.handRc t x := rfl
@[simp] theorem mute_clearOutstanding : (s.clearOutstanding t).mute = s.mute.clearOutstanding t := rfl
@[simp] theorem mute_cancelService : (s.cancelService t).mute = s.mute.cancelService t := rfl
@[simp] theorem mute_sendWatch : (s.sendWatch t).mute = s.mute.sendWatch t := rfl

@[simp] theorem mute_leaves (rs : List Answer) : (s.leaves rs).mute = s.mute.leaves rs := by
  induction rs generalizing s with
  | nil => rfl
  | cons x xs ih => exact ih (s.leaveWindow x.1 x.2.tag)

/-! ### What is sent -/

/-- From `s` to `s'` the deferred responses `rs` were placed and session n heard the notices `hs n`, none of them a LINK_FAULT. -/
structure Sends (s s' : State) (rs : List Answer) (hs : Index → List NoticeBody) : Prop where
  answered : s.answered s' rs
  heard : ∀ n, s.heard s' n (hs n)
  noFault : ∀ n, ∀ b ∈ hs n, b.isFault = false

/-- Nothing is sent by a step that touches no link and no notice queue. -/
theorem Sends.nothing {s s' : State} (hl : s'.links = s.links) (hn : s'.notices = s.notices) : s.Sends s' [] fun _ => [] :=
  ⟨fun n => by simp [link, hl], fun n => by simp [State.heard, notice, hn], fun _ _ h => absurd h List.not_mem_nil⟩

theorem Sends.refl : s.Sends s [] fun _ => [] := .nothing rfl rfl

/-- What is sent in two stages, between which no session opens or closes. -/
theorem Sends.trans {s s1 s2 : State} {rs1 rs2 : List Answer} {h1 h2 : Index → List NoticeBody} (ho : ∀ n, s1.isOpen n = s.isOpen n)
    (a : s.Sends s1 rs1 h1) (b : s1.Sends s2 rs2 h2) : s.Sends s2 (rs1 ++ rs2) fun n => h1 n ++ h2 n := by
  refine ⟨fun n => ?_, fun n => ?_, fun n x hx => ?_⟩
  · rw [b.answered n, a.answered n]
    simp [ho n, List.append_assoc]
  · show (s2.notice n).contents = _
    rw [b.heard n, List.foldl_append]
    exact NoticeQueue.contents_foldl_take_congr (b.noFault n) (a.heard n)
  · rcases List.mem_append.1 hx with h | h
    · exact a.noFault n x h
    · exact b.noFault n x h

/-- Two stages, the second of which sends nothing. -/
theorem Sends.then_nothing {s s1 s2 : State} {rs : List Answer} {hs : Index → List NoticeBody} (a : s.Sends s1 rs hs)
    (hl : s2.links = s1.links) (hn : s2.notices = s1.notices) : s.Sends s2 rs hs :=
  ⟨fun n => by simpa [link, hl] using a.answered n, fun n => by simpa [State.heard, notice, hn] using a.heard n, a.noFault⟩

/-- Two stages, the first of which sends nothing and opens or closes no session. -/
theorem Sends.after_nothing {s s1 s2 : State} {rs : List Answer} {hs : Index → List NoticeBody} (a : s1.Sends s2 rs hs)
    (hl : s1.links = s.links) (hn : s1.notices = s.notices) (ho : ∀ n, s1.isOpen n = s.isOpen n) : s.Sends s2 rs hs :=
  ⟨fun n => by simpa [link, hl, ho] using a.answered n, fun n => by simpa [State.heard, notice, hn] using a.heard n, a.noFault⟩

theorem Sends.congr {s s' : State} {rs rs' : List Answer} {hs hs' : Index → List NoticeBody} (a : s.Sends s' rs hs) (hr : rs = rs')
    (hh : ∀ n, hs n = hs' n) : s.Sends s' rs' hs' := by
  obtain rfl : hs = hs' := funext hh
  exact hr ▸ a

/-- The notices of every watcher of `t`. -/
abbrev toWatchers (bs : List NoticeBody) : Index → List NoticeBody := fun n => if s.watches n t then bs else []

theorem Sends.tells {s s' : State} {rs : List Answer} {t : Index} {bs : List NoticeBody} (a : s.Sends s' rs (s.toWatchers t bs)) :
    s.tells s' t bs := a.heard

/-! ### The arbiter -/

/-- All that the arbiter does: it begins a frame and may set a sent flag on its own link. -/
theorem arbitrate_spec : (s.arbitrate l).mute = s.mute ∧ (∀ n, ((s.arbitrate l).link n).respQ = (s.link n).respQ) ∧
    (∀ n, ((s.arbitrate l).notice n).contents = (s.notice n).contents) ∧
    ∀ n, n ≠ l → (s.arbitrate l).link n = s.link n ∧ (s.arbitrate l).notice n = s.notice n := by
  unfold arbitrate
  split
  · split
    · refine ⟨mute_modLink_queue s l rfl, fun n => ?_, fun n => rfl, fun n hn => ⟨modLink_link_of_ne s _ hn, rfl⟩⟩
      by_cases h : n = l
      · subst h; simp
      · rw [modLink_link_of_ne s _ h]
    · split
      · refine ⟨?_, fun n => ?_, fun n => ?_, fun n hn => ⟨?_, ?_⟩⟩
        · rw [mute_modLink_queue _ l rfl, mute_modNotice]
        · by_cases h : n = l
          · subst h; simp
          · rw [modLink_link_of_ne _ _ h, modNotice_link]
        · by_cases h : n = l
          · subst h; simp
          · rw [modLink_notice, modNotice_notice_of_ne s _ h]
        · rw [modLink_link_of_ne _ _ hn, modNotice_link]
        · rw [modLink_notice, modNotice_notice_of_ne s _ hn]
      · exact ⟨rfl, fun _ => rfl, fun _ => rfl, fun _ _ => ⟨rfl, rfl⟩⟩
  · exact ⟨rfl, fun _ => rfl, fun _ => rfl, fun _ _ => ⟨rfl, rfl⟩⟩
  · exact ⟨rfl, fun _ => rfl, fun _ => rfl, fun _ _ => ⟨rfl, rfl⟩⟩

@[simp] theorem mute_arbitrate : (s.arbitrate l).mute = s.mute := (s.arbitrate_spec l).1

/-! ### Notices -/

/-- All that handing a notice does: nothing outside the outgoing side of its link, no response, and one notice taken by R130. -/
theorem queueNotice_spec (b : NoticeBody) : (s.queueNotice n b).mute = s.mute ∧
    (∀ m, ((s.queueNotice n b).link m).respQ = (s.link m).respQ) ∧
    (∀ m, ((s.queueNotice n b).notice m).contents = if m = n ∧ s.isOpen n then ((s.notice n).take b).contents else (s.notice m).contents) ∧
    ∀ m, m ≠ n → (s.queueNotice n b).link m = s.link m ∧ (s.queueNotice n b).notice m = s.notice m := by
  unfold queueNotice
  by_cases ho : s.isOpen n = true
  · rw [if_pos ho]
    obtain ⟨h1, h2, h3, h4⟩ := (s.modNotice n (·.take b)).arbitrate_spec n
    refine ⟨h1.trans (mute_modNotice s n _), h2, fun m => ?_, fun m hm => ?_⟩
    · rw [h3 m, modNotice_notice]
      by_cases h : m = n
      · simp [h, ho]
      · simp [h]
    · rw [(h4 m hm).1, (h4 m hm).2]
      exact ⟨rfl, modNotice_notice_of_ne s _ hm⟩
  · rw [if_neg ho]
    refine ⟨rfl, fun _ => rfl, fun m => ?_, fun _ _ => ⟨rfl, rfl⟩⟩
    simp [ho]

@[simp] theorem mute_queueNotice (b : NoticeBody) : (s.queueNotice n b).mute = s.mute := (s.queueNotice_spec n b).1

@[simp] theorem mute_linkFault : (s.linkFault l).mute = s.mute := s.mute_queueNotice l _

/-- A notice that is not a LINK_FAULT is heard by its session. -/
theorem queueNotice_sends {b : NoticeBody} (hb : b.isFault = false) :
    s.Sends (s.queueNotice n b) [] fun m => if m = n ∧ s.isOpen n then [b] else [] := by
  obtain ⟨_, h2, h3, _⟩ := s.queueNotice_spec n b
  refine ⟨fun m => by simp [h2 m], fun m => ?_, fun m x hx => ?_⟩
  · show ((s.queueNotice n b).notice m).contents = _
    rw [h3 m]
    by_cases h : m = n ∧ s.isOpen n
    · simp [h]
    · simp [h]
  · by_cases h : m = n ∧ s.isOpen n
    · rw [if_pos h] at hx
      rw [List.mem_singleton.1 hx]; exact hb
    · rw [if_neg h] at hx
      exact absurd hx List.not_mem_nil

/-- A watcher is open. -/
theorem isOpen_of_watches {s : State} {n t : Index} (h : s.watches n t) : s.isOpen n := by
  unfold watches at h
  unfold isOpen
  cases hc : (s.session n).current <;> simp_all

/-- All that a change of run state tells: one STATE notice to each watcher, and nothing else (R8). -/
theorem notifyState_spec : (s.notifyState t).mute = s.mute ∧ s.Sends (s.notifyState t) [] (s.toWatchers t [s.stateBody t]) := by
  have key : ∀ (ns : List Index) (x : State), x.mute = s.mute → ns.Nodup →
      let y := ns.foldl (fun s' n => if s'.watches n t then s'.queueNotice n (s'.stateBody t) else s') x
      y.mute = s.mute ∧ x.Sends y [] fun m => if m ∈ ns ∧ s.watches m t then [s.stateBody t] else [] := by
    intro ns
    induction ns with
    | nil => intro x hx _; exact ⟨hx, (Sends.refl x).congr rfl fun m => by simp⟩
    | cons n ns ih =>
      intro x hx hnd
      have hb : x.stateBody t = s.stateBody t := stateBody_congr (parts_of_mute hx).2.2.1 t
      have hw : ∀ k, x.watches k t = s.watches k t := fun k => watches_of_mute hx k t
      obtain ⟨hn, hns⟩ := List.nodup_cons.1 hnd
      simp only [List.foldl_cons]
      by_cases h : x.watches n t = true
      · rw [if_pos h]
        have h1 : (x.queueNotice n (x.stateBody t)).mute = s.mute := (mute_queueNotice x n _).trans hx
        obtain ⟨h2, h3⟩ := ih (x.queueNotice n (x.stateBody t)) h1 hns
        refine ⟨h2, ((x.queueNotice_sends n (b := x.stateBody t) rfl).trans ?_ h3).congr rfl fun m => ?_⟩
        · intro k; exact isOpen_of_mute (mute_queueNotice x n _) k
        · have hno : x.isOpen n = true := isOpen_of_watches h
          by_cases hm : m = n
          · subst hm; simp [hno, hn, ← hw, h, hb]
          · simp [hm]
      · rw [if_neg h]
        obtain ⟨h2, h3⟩ := ih x hx hns
        refine ⟨h2, h3.congr rfl fun m => ?_⟩
        by_cases hm : m = n
        · subst hm; simp [hn, ← hw, h]
        · simp [hm]
  obtain ⟨h1, h2⟩ := key indices s rfl (by decide)
  exact ⟨h1, h2.congr rfl fun m => by simp⟩

@[simp] theorem mute_notifyState : (s.notifyState t).mute = s.mute := (s.notifyState_spec t).1

theorem notifyState_sends : s.Sends (s.notifyState t) [] (s.toWatchers t [s.stateBody t]) := (s.notifyState_spec t).2

/-! ### Responses -/

/-- All that placing a response does. -/
theorem place_spec (o : RespOwner) (r : Response) : (s.place l o r).mute = s.mute ∧
    (∀ m, ((s.place l o r).link m).respQ = if m = l then (s.link l).respQ ++ [{ owner := o, resp := r }] else (s.link m).respQ) ∧
    (∀ m, ((s.place l o r).notice m).contents = (s.notice m).contents) ∧
    ∀ m, m ≠ l → (s.place l o r).link m = s.link m ∧ (s.place l o r).notice m = s.notice m := by
  unfold place
  obtain ⟨h1, h2, h3, h4⟩ :=
    (s.modLink l fun u => { u with respQ := u.respQ ++ [{ owner := o, resp := r }] }).arbitrate_spec l
  refine ⟨h1.trans (mute_modLink_queue s l rfl), fun m => ?_, h3, fun m hm => ?_⟩
  · rw [h2 m, modLink_link]
    by_cases h : m = l
    · simp [h]
    · simp [h]
  · rw [(h4 m hm).1, (h4 m hm).2]
    exact ⟨modLink_link_of_ne s _ hm, rfl⟩

@[simp] theorem mute_place (o : RespOwner) (r : Response) : (s.place l o r).mute = s.mute := (s.place_spec l o r).1

/-- An immediate response touches nothing but the outgoing side of its own link (R163). -/
theorem respondNow_spec (r : Response) : (s.respondNow l r).mute = s.mute ∧ s.othersSilent (s.respondNow l r) l := by
  unfold respondNow
  split
  · exact ⟨mute_place s l _ r, (s.place_spec l _ r).2.2.2⟩
  · exact ⟨mute_linkFault s l, (s.queueNotice_spec l _).2.2.2⟩

@[simp] theorem mute_respondNow (r : Response) : (s.respondNow l r).mute = s.mute := (s.respondNow_spec l r).1

@[simp] theorem mute_respondPlain (tag kind : Byte) (st : Status) : (s.respondPlain l tag kind st).mute = s.mute := s.mute_respondNow l _

/-- With at most three responses queued, an immediate response is placed. -/
theorem respondNow_placed {r : Response} (h : (s.link l).respQ.length ≤ 3) :
    s.respondNow l r = s.place l (if s.isOpen l then .session else .none) r := by
  unfold respondNow
  rw [if_pos]
  simp only [freePlaces, Config.respPlaces, Config.immediateNeeds]; omega

/-- With four or more queued it is discarded as a link fault. -/
theorem respondNow_discarded {r : Response} (h : 4 ≤ (s.link l).respQ.length) : s.respondNow l r = s.linkFault l := by
  unfold respondNow
  rw [if_neg]
  simp only [freePlaces, Config.respPlaces, Config.immediateNeeds]; omega

/-- A CLOSED record has no tag to lose. -/
theorem leaveWindow_of_closed (tag : Byte) (h : s.isOpen n = false) : s.leaveWindow n tag = s := by
  have hc : s.sessions.get n = { s.sessions.get n with current := none } := by
    have : (s.sessions.get n).current = none := by simpa [isOpen, session] using h
    cases hs : s.sessions.get n; simp_all
  unfold leaveWindow modOpen modSession
  have : (s.sessions.modify n fun x => { x with current := x.current.map fun o => { o with tags := o.tags.erase tag } }) = s.sessions := by
    unfold Quad.modify
    rw [hc]
    simp only [Option.map_none]
    rw [← hc, Quad.set_get]
  rw [this]

/-- All that a deferred response does: its tag leaves the window and it is placed, where its session is open. -/
theorem respondDeferred_spec (r : Response) : (s.respondDeferred n r).mute = (s.leaves [(n, r)]).mute ∧
    s.Sends (s.respondDeferred n r) [(n, r)] fun _ => [] := by
  unfold respondDeferred
  by_cases ho : s.isOpen n = true
  · rw [if_pos ho]
    obtain ⟨h1, h2, h3, _⟩ := (s.leaveWindow n r.tag).place_spec n .session r
    refine ⟨h1, fun m => ?_, h3, fun _ _ h => absurd h List.not_mem_nil⟩
    rw [h2 m]
    by_cases h : m = n
    · subst h; simp [ho, leaveWindow, modOpen]
    · simp [h, Ne.symm h, leaveWindow, modOpen]
  · rw [if_neg ho]
    have ho' : s.isOpen n = false := by simpa using ho
    refine ⟨?_, fun m => ?_, (Sends.refl s).heard, (Sends.refl s).noFault⟩
    · show s.mute = (s.leaveWindow n r.tag).mute
      rw [leaveWindow_of_closed s n r.tag ho']
    · by_cases h : m = n
      · subst h; simp [ho']
      · simp [Ne.symm h]

@[simp] theorem mute_respondDeferred (r : Response) : (s.respondDeferred n r).mute = s.mute.leaveWindow n r.tag :=
  (s.respondDeferred_spec n r).1

/-- No session opens or closes when tags leave the windows. -/
@[simp] theorem isOpen_leaves (rs : List Answer) : (s.leaves rs).isOpen n = s.isOpen n := by
  induction rs generalizing s with
  | nil => rfl
  | cons x xs ih => exact (ih _).trans (isOpen_modOpen s n x.1 _)

theorem leaves_append (rs rs' : List Answer) : s.leaves (rs ++ rs') = (s.leaves rs).leaves rs' := List.foldl_append ..

@[simp] theorem leaves_nil : s.leaves [] = s := rfl

@[simp] theorem leaves_targets (rs : List Answer) : (s.leaves rs).targets = s.targets := by
  induction rs generalizing s with
  | nil => rfl
  | cons x xs ih => exact ih _

@[simp] theorem leaves_records (rs : List Answer) : (s.leaves rs).records = s.records := by
  induction rs generalizing s with
  | nil => rfl
  | cons x xs ih => exact ih _

@[simp] theorem leaves_links (rs : List Answer) : (s.leaves rs).links = s.links := by
  induction rs generalizing s with
  | nil => rfl
  | cons x xs ih => exact ih _

@[simp] theorem leaves_notices (rs : List Answer) : (s.leaves rs).notices = s.notices := by
  induction rs generalizing s with
  | nil => rfl
  | cons x xs ih => exact ih _

@[simp] theorem leaves_rc (rs : List Answer) : (s.leaves rs).rc t = s.rc t := by simp [rc, target]
@[simp] theorem leaves_acc (rs : List Answer) : (s.leaves rs).acc t = s.acc t := by simp [acc, target]
@[simp] theorem leaves_port (rs : List Answer) : (s.leaves rs).port t = s.port t := by simp [port, target]
@[simp] theorem leaves_cfg (rs : List Answer) : (s.leaves rs).cfg t = s.cfg t := by simp [cfg, target]
@[simp] theorem leaves_bank (rs : List Answer) : (s.leaves rs).bank t = s.bank t := by simp [bank, target]

theorem watches_modOpen {f : OpenSession → OpenSession} (h : ∀ o, (f o).watch = o.watch) :
    (s.modOpen n f).watches m t = s.watches m t := by
  by_cases hm : m = n
  · subst hm; cases hc : (s.session m).current <;> simp [watches, modOpen, hc, h]
  · simp [watches, modOpen, modSession_session, hm]

@[simp] theorem watches_leaves (rs : List Answer) : (s.leaves rs).watches m t = s.watches m t := by
  induction rs generalizing s with
  | nil => rfl
  | cons x xs ih => exact (ih _).trans (watches_modOpen s m x.1 t fun _ => rfl)

/-- A response to each of a list of requests, one after another. -/
theorem foldl_respondDeferred (rs : List Answer) :
    (rs.foldl (fun s' x => s'.respondDeferred x.1 x.2) s).mute = s.mute.leaves rs ∧
      s.Sends (rs.foldl (fun s' x => s'.respondDeferred x.1 x.2) s) rs fun _ => [] := by
  induction rs generalizing s with
  | nil => exact ⟨rfl, Sends.refl s⟩
  | cons x xs ih =>
    obtain ⟨h1, h2⟩ := s.respondDeferred_spec x.1 x.2
    obtain ⟨h3, h4⟩ := ih (s.respondDeferred x.1 x.2)
    refine ⟨?_, (h2.trans (fun k => ?_) h4).congr rfl fun _ => rfl⟩
    · rw [List.foldl_cons, h3, h1]; simp [leaves]
    · rw [isOpen_of_mute h1, isOpen_leaves]

end State

end Sys2Proof.Machine
end

