-- ==== Sys2Proof/Laws/Run.lean ====
section
/-! SUPPORT. The shared operations of the Run Control Unit in closed form: for each, the state it leaves outside the outgoing queues,
the deferred responses it places and the notices it gives. -/

namespace Sys2Proof.Machine.State

variable (s : State) (t u n : Index)

/-- `s'` is `base` outside the outgoing queues, and `rs` and `hs` are what was sent on the way from `s`. -/
structure Does (s s' base : State) (rs : List Answer) (hs : Index → List NoticeBody) : Prop where
  mute : s'.mute = base.mute
  sends : s.Sends s' rs hs

theorem Does.congr {s s' b b' : State} {rs rs' : List Answer} {hs hs' : Index → List NoticeBody} (a : s.Does s' b rs hs)
    (hb : b.mute = b'.mute) (hr : rs = rs') (hh : ∀ n, hs n = hs' n) : s.Does s' b' rs' hs' :=
  ⟨a.mute.trans hb, a.sends.congr hr hh⟩

/-- A silent change of `s` that opens or closes no session. -/
theorem Does.silent {s s' : State} (hl : s'.links = s.links) (hn : s'.notices = s.notices) : s.Does s' s' [] fun _ => [] :=
  ⟨rfl, .nothing hl hn⟩

/-- Two stages. -/
theorem Does.trans {s s1 s2 b1 b2 : State} {r1 r2 : List Answer} {h1 h2 : Index → List NoticeBody} (a : s.Does s1 b1 r1 h1)
    (ho : ∀ n, s1.isOpen n = s.isOpen n) (b : s1.Does s2 b2 r2 h2) : s.Does s2 b2 (r1 ++ r2) fun n => h1 n ++ h2 n :=
  ⟨b.mute, a.sends.trans ho b.sends⟩

/-- A silent change first. -/
theorem Does.after {s s1 s2 b : State} {rs : List Answer} {hs : Index → List NoticeBody} (a : s1.Does s2 b rs hs)
    (hl : s1.links = s.links) (hn : s1.notices = s.notices) (ho : ∀ n, s1.isOpen n = s.isOpen n) : s.Does s2 b rs hs :=
  ⟨a.mute, a.sends.after_nothing hl hn ho⟩

theorem leaves_modRc (f : RunControl → RunControl) (rs : List Answer) : (s.modRc t f).leaves rs = (s.leaves rs).modRc t f := by
  induction rs generalizing s with
  | nil => rfl
  | cons r rs ih => exact ih (s.leaveWindow r.1 r.2.tag)

/-! ### The port -/

theorem hand_eq {x : PortMsg} (h : ∀ g, x ≠ .attn g) : s.hand t x = s.modPort t fun p => { p with sendList := p.sendList ++ [x] } := by
  unfold hand
  cases x <;> first | rfl | exact absurd rfl (h _)

/-- A run-control message handed: it becomes outstanding and joins the send list. -/
theorem handRc_eq (c : RcMsg) : s.handRc t c = s.modPort t fun p =>
    { p with
      outstanding := some { msg := c, timer := (c.timeout (s.cfg t)).toNat }
      sendList := p.sendList ++ [c.msg] } := by
  unfold handRc
  rw [hand_eq _ _ (by cases c <;> simp [RcMsg.msg])]
  simp

theorem modRc_handRc (f : RunControl → RunControl) (c : RcMsg) : (s.modRc t f).handRc u c = (s.handRc u c).modRc t f := by
  rw [handRc_eq, handRc_eq, modRc_modPort]; simp

theorem modRc_clearOutstanding (f : RunControl → RunControl) : (s.modRc t f).clearOutstanding u = (s.clearOutstanding u).modRc t f :=
  modRc_modPort ..

theorem modRc_cancelService (f : RunControl → RunControl) : (s.modRc t f).cancelService u = (s.cancelService u).modRc t f := by
  unfold cancelService
  rw [modRc_clearOutstanding, hand_eq _ _ (by simp), hand_eq _ _ (by simp), modRc_modPort]

theorem modOpen_handRc (f : OpenSession → OpenSession) (c : RcMsg) : (s.modOpen n f).handRc t c = (s.handRc t c).modOpen n f := by
  rw [handRc_eq, handRc_eq, modOpen_modPort]; rfl

@[simp] theorem handRc_rc (c : RcMsg) : (s.handRc t c).rc u = s.rc u := by rw [handRc_eq]; simp
@[simp] theorem handRc_acc (c : RcMsg) : (s.handRc t c).acc u = s.acc u := by rw [handRc_eq]; simp
@[simp] theorem handRc_cfg (c : RcMsg) : (s.handRc t c).cfg u = s.cfg u := by rw [handRc_eq]; simp
@[simp] theorem handRc_bank (c : RcMsg) : (s.handRc t c).bank u = s.bank u := by rw [handRc_eq]; simp
@[simp] theorem handRc_sessions (c : RcMsg) : (s.handRc t c).sessions = s.sessions := by rw [handRc_eq]; simp
@[simp] theorem handRc_links (c : RcMsg) : (s.handRc t c).links = s.links := by rw [handRc_eq]; simp
@[simp] theorem handRc_notices (c : RcMsg) : (s.handRc t c).notices = s.notices := by rw [handRc_eq]; simp
@[simp] theorem handRc_isOpen (c : RcMsg) : (s.handRc t c).isOpen n = s.isOpen n := isOpen_congr (by simp) n
@[simp] theorem handRc_watches (c : RcMsg) : (s.handRc t c).watches n u = s.watches n u := watches_congr (by simp) n u

@[simp] theorem clearOutstanding_rc : (s.clearOutstanding t).rc u = s.rc u := by simp [clearOutstanding]
@[simp] theorem clearOutstanding_acc : (s.clearOutstanding t).acc u = s.acc u := by simp [clearOutstanding]

@[simp] theorem cancelService_rc : (s.cancelService t).rc u = s.rc u := by
  unfold cancelService; rw [hand_eq _ _ (by simp)]; simp
@[simp] theorem cancelService_acc : (s.cancelService t).acc u = s.acc u := by
  unfold cancelService; rw [hand_eq _ _ (by simp)]; simp

@[simp] theorem modRc_isOpen (f : RunControl → RunControl) : (s.modRc t f).isOpen n = s.isOpen n := isOpen_congr rfl n
@[simp] theorem modRc_watches (f : RunControl → RunControl) : (s.modRc t f).watches n u = s.watches n u := watches_congr rfl n u
@[simp] theorem modPort_isOpen (f : Port → Port) : (s.modPort t f).isOpen n = s.isOpen n := isOpen_congr rfl n
@[simp] theorem modPort_watches (f : Port → Port) : (s.modPort t f).watches n u = s.watches n u := watches_congr rfl n u
@[simp] theorem modAcc_isOpen (f : AccessEngine → AccessEngine) : (s.modAcc t f).isOpen n = s.isOpen n := isOpen_congr rfl n
@[simp] theorem modAcc_watches (f : AccessEngine → AccessEngine) : (s.modAcc t f).watches n u = s.watches n u := watches_congr rfl n u

/-! ### Run states -/

/-- The STATE notice after a change of the Run Control Unit. -/
theorem stateBody_modRc (f : RunControl → RunControl) : (s.modRc t f).stateBody t =
    .state t (f (s.rc t)).run (f (s.rc t)).hold (f (s.rc t)).lock
      (if (f (s.rc t)).run = .halted then some ((f (s.rc t)).haltCause, (f (s.rc t)).lastPc) else none) := by
  unfold stateBody; rw [modRc_rc_self]

/-- Leaving STATE notices to the watchers. -/
theorem notifyState_does : s.Does (s.notifyState t) s [] (s.toWatchers t [s.stateBody t]) :=
  ⟨s.mute_notifyState t, s.notifyState_sends t⟩

/-- A change of the Run Control Unit and its STATE notices. -/
theorem modRc_notifyState (f : RunControl → RunControl) : s.Does ((s.modRc t f).notifyState t) (s.modRc t f) []
    (s.toWatchers t [(s.modRc t f).stateBody t]) :=
  ((notifyState_does (s.modRc t f) t).after (s := s) rfl rfl fun _ => rfl).congr rfl rfl fun n => by simp [toWatchers]

theorem setRun_does (x : RunState) : s.Does (s.setRun t x) (s.modRc t fun r => { r with run := x }) []
    (s.toWatchers t [.state t x (s.rc t).hold (s.rc t).lock (if x = .halted then some ((s.rc t).haltCause, (s.rc t).lastPc) else none)]) :=
  (s.modRc_notifyState t fun r => { r with run := x }).congr rfl rfl fun _ => by rw [stateBody_modRc]

/-- Stopping the target (R6): STOP handed, the stop cause where none stands, STOPPING, one STATE notice. -/
theorem stop_does : s.Does (s.stop t) ((s.modRc t stoppingRc).handRc t .stop) []
    (s.toWatchers t [.state t .stopping (s.rc t).hold (s.rc t).lock none]) := by
  have h : s.stop t = ((s.handRc t .stop).modRc t stoppingRc).notifyState t := by
    simp only [stop, setStopCause, setRun, modRc_modRc]
    rw [modRc_congr]
    simp [stoppingRc]
  rw [h, modRc_handRc]
  exact ((modRc_notifyState (s.handRc t .stop) t stoppingRc).after (s := s) (by simp) (by simp) (by simp)).congr rfl rfl fun n => by
    simp [toWatchers, stateBody_modRc, stoppingRc]

/-- The release that is made (R7): RUN handed, RELEASING, one STATE notice. -/
theorem release_made (h : (s.acc t).inFlight = false) :
    s.Does (s.release t) ((s.modRc t fun r => { r with run := .releasing, relDefer := false }).handRc t .run) []
      (s.toWatchers t [.state t .releasing (s.rc t).hold (s.rc t).lock none]) := by
  have e : s.release t = ((s.handRc t .run).modRc t fun r => { r with run := .releasing, relDefer := false }).notifyState t := by
    simp [release, h, setRun]
  rw [e, modRc_handRc]
  exact ((modRc_notifyState (s.handRc t .run) t _).after (s := s) (by simp) (by simp) (by simp)).congr rfl rfl fun n => by
    simp [toWatchers, stateBody_modRc]

/-- The release that an access in flight defers (R7). -/
theorem release_deferred (h : (s.acc t).inFlight = true) : s.release t = s.modRc t fun r => { r with relDefer := true } := by
  simp [release, h]

/-! ### Waiters -/

/-- The answers to the waiters that `p` picks (R5): one deferred response each, in list order. -/
theorem answerWaiters_does (p : Waiter → Bool) (st : Status) :
    s.Does (s.answerWaiters t p st)
      ((s.leaves (((s.rc t).waiters.filter p).map (waiterAnswer st (s.rc t).hold))).modRc t
        fun r => { r with waiters := r.waiters.filter fun w => !p w })
      (((s.rc t).waiters.filter p).map (waiterAnswer st (s.rc t).hold)) fun _ => [] := by
  have key : ∀ (ws : List Waiter) (x : State), x.rc t = { s.rc t with waiters := (s.rc t).waiters.filter fun w => !p w } →
      (ws.foldl (answerWaiter t st) x).mute = x.mute.leaves (ws.map (waiterAnswer st (s.rc t).hold)) ∧
        x.Sends (ws.foldl (answerWaiter t st) x) (ws.map (waiterAnswer st (s.rc t).hold)) fun _ => [] := by
    intro ws
    induction ws with
    | nil => intro x _; exact ⟨rfl, Sends.refl x⟩
    | cons w ws ih =>
      intro x hx
      have e : answerWaiter t st x w = x.respondDeferred (waiterAnswer st (s.rc t).hold w).1 (waiterAnswer st (s.rc t).hold w).2 := by
        simp [answerWaiter, waiterAnswer, resumePayload, hx]
      obtain ⟨h1, h2⟩ := x.respondDeferred_spec (waiterAnswer st (s.rc t).hold w).1 (waiterAnswer st (s.rc t).hold w).2
      rw [List.foldl_cons, e]
      obtain ⟨h3, h4⟩ := ih (x.respondDeferred _ _) (by rw [rc_of_mute h1, leaves_rc, hx])
      refine ⟨?_, (h2.trans (fun k => ?_) h4).congr rfl fun _ => rfl⟩
      · rw [h3, h1, mute_leaves, ← leaves_append]; rfl
      · rw [isOpen_of_mute h1, isOpen_leaves]
  obtain ⟨h1, h2⟩ := key ((s.rc t).waiters.filter p)
    (s.modRc t fun r => { r with waiters := r.waiters.filter fun w => !p w }) (by simp)
  have e : s.answerWaiters t p st = ((s.rc t).waiters.filter p).foldl (answerWaiter t st)
      (s.modRc t fun r => { r with waiters := r.waiters.filter fun w => !p w }) := rfl
  rw [e]
  refine ⟨?_, h2.after_nothing (s := s) rfl rfl fun _ => rfl⟩
  rw [h1, mute_modRc, leaves_modRc, mute_modRc, mute_leaves]

end Sys2Proof.Machine.State
end

