-- ==== Sys2Proof/Laws/Enter.lean ====
section
/-! SUPPORT. The entries to HALTED, RUNNING and UNRESPONSIVE, and a claim, in the closed forms of Safety.lean. -/

namespace Sys2Proof.Machine.State

variable (s : State) (t n : Index)

/-! ### Reading after a silent equality -/

theorem leaves_of_mute {s s' : State} (h : s'.mute = s.mute) (rs : List Answer) : (s'.leaves rs).mute = (s.leaves rs).mute := by
  rw [mute_leaves, mute_leaves, h]

theorem modRc_of_mute {s s' : State} (h : s'.mute = s.mute) (t : Index) (f : RunControl → RunControl) :
    (s'.modRc t f).mute = (s.modRc t f).mute := by
  rw [mute_modRc, mute_modRc, h]

theorem modAcc_of_mute {s s' : State} (h : s'.mute = s.mute) (t : Index) (f : AccessEngine → AccessEngine) :
    (s'.modAcc t f).mute = (s.modAcc t f).mute := by
  rw [mute_modAcc, mute_modAcc, h]

theorem handRc_of_mute {s s' : State} (h : s'.mute = s.mute) (t : Index) (c : RcMsg) :
    (s'.handRc t c).mute = (s.handRc t c).mute := by
  rw [mute_handRc, mute_handRc, h]

/-- A second stage whose base is what the first stage leaves. -/
theorem Does.then {s s1 s2 b1 b2 : State} {r1 r2 : List Answer} {h1 h2 : Index → List NoticeBody} (a : s.Does s1 b1 r1 h1)
    (b : s1.Does s2 b2 r2 h2) (ho : ∀ n, b1.isOpen n = s.isOpen n) : s.Does s2 b2 (r1 ++ r2) fun n => h1 n ++ h2 n :=
  a.trans (fun n => (isOpen_of_mute a.mute n).trans (ho n)) b

/-- A silent last stage. -/
theorem Does.then_silent {s s1 s2 b : State} {rs : List Answer} {hs : Index → List NoticeBody} (a : s.Does s1 b rs hs)
    (hl : s2.links = s1.links) (hn : s2.notices = s1.notices) : s.Does s2 s2 rs hs :=
  ⟨rfl, a.sends.then_nothing hl hn⟩

/-- A change of the Run Control Unit alone sends nothing. -/
theorem still (f : RunControl → RunControl) : s.Does (s.modRc t f) (s.modRc t f) [] fun _ => [] := Does.silent rfl rfl

/-! ### HALTED -/

/-- An entry to HALTED (R3, R5, R14, R15): `haltedEntry` outside the outgoing queues, its answers, its notices. -/
theorem enterHalted_does (c : HaltCause) :
    s.Does (s.enterHalted t c) (s.haltedEntry t (s.rc t).hold c (s.rc t).lastPc) (haltAnswers (s.rc t) (s.rc t).hold)
      (s.toWatchers t (haltNotices t (s.rc t) (s.acc t) (s.rc t).hold c (s.rc t).lastPc)) := by
  set r := s.rc t with hr
  set s1 := s.modRc t fun r => { r with run := .halted, haltCause := some c, stopCause := none } with hs1
  have h1 : s1.rc t = { r with run := .halted, haltCause := some c, stopCause := none } := by rw [hs1, modRc_rc_self]
  by_cases he : r.hold.isEmpty = true
  · -- nobody holds the target
    have e : s.enterHalted t c = ((s1.answerHalts t).notifyState t).release t := by
      unfold enterHalted; simp only [← hr, he, if_true, ← hs1]
    have a1 := s1.answerWaiters_does t (fun w => w.kind == .halt) .ok
    rw [h1] at a1
    have a1' : s1.Does (s1.answerHalts t) _ _ _ := a1
    have a2 := notifyState_does (s1.answerHalts t) t
    have b2 : (s1.answerHalts t).stateBody t = .state t .halted r.hold r.lock (some (some c, r.lastPc)) := by
      unfold stateBody
      rw [rc_of_mute a1'.mute]
      simp [h1]
    have m2 : ((s1.answerHalts t).notifyState t).mute = _ := a2.mute.trans a1'.mute
    have a3 : s1.Does ((s1.answerHalts t).notifyState t) _ _ _ :=
      (a1'.then a2 (fun k => by simp)).congr a1'.mute rfl fun _ => rfl
    have hw : ∀ k, (s1.answerHalts t).watches k t = s.watches k t := fun k => by
      rw [watches_of_mute a1'.mute]; simp [hs1]
    rw [e]
    by_cases hf : (s.acc t).inFlight = true
    · rw [release_deferred _ _ (by rw [acc_of_mute m2]; simpa [hs1] using hf)]
      have a4 : s1.Does (((s1.answerHalts t).notifyState t).modRc t fun r => { r with relDefer := true }) _ _ _ :=
        a3.then_silent rfl rfl
      refine (a4.after (s := s) rfl rfl fun _ => rfl).congr ?_ ?_ fun k => ?_
      · rw [modRc_of_mute m2]
        simp only [haltedEntry, haltAnswers, he, ← hr, hf, if_true, Bool.not_true, Bool.and_false, Bool.false_eq_true, if_false,
          kindAnswers, hs1, leaves_modRc, modRc_modRc, mute_modRc]
        refine modRc_congr _ t ?_
        simp [haltedRc, he, hf, ← hr]
        rfl
      · simp [haltAnswers, kindAnswers, he]
      · simp [toWatchers, hw, b2, haltNotices, he, hf]
    · have hf' : (s.acc t).inFlight = false := by simpa using hf
      have a4 := release_made ((s1.answerHalts t).notifyState t) t (by rw [acc_of_mute m2]; simpa [hs1] using hf')
      refine ((a3.then a4 (fun k => by simp)).after (s := s) rfl rfl fun _ => rfl).congr ?_ ?_ fun k => ?_
      · rw [handRc_of_mute (modRc_of_mute m2 t _)]
        simp only [haltedEntry, haltAnswers, he, ← hr, hf', if_true, Bool.not_false, Bool.and_true, kindAnswers, hs1, leaves_modRc,
          modRc_modRc]
        refine handRc_of_mute ?_ t .run
        refine congrArg mute (modRc_congr _ t ?_)
        simp [haltedRc, he, hf', ← hr]
        rfl
      · simp [haltAnswers, kindAnswers, he]
      · have hw' : ((s1.answerHalts t).notifyState t).watches k t = s.watches k t := by
          rw [watches_of_mute a2.mute, hw]
        simp only [toWatchers, hw, hw', b2, haltNotices, he, hf', rc_of_mute m2]
        by_cases hk : s.watches k t = true <;> simp [hk, h1]
  · -- somebody holds it
    have e : s.enterHalted t c = (s1.answerAll t .ok).notifyState t := by
      unfold enterHalted; simp only [← hr, he, ← hs1]; rfl
    have a1 := s1.answerWaiters_does t (fun _ => true) .ok
    rw [h1] at a1
    have a1' : s1.Does (s1.answerAll t .ok) _ _ _ := a1
    have a2 := notifyState_does (s1.answerAll t .ok) t
    have b2 : (s1.answerAll t .ok).stateBody t = .state t .halted r.hold r.lock (some (some c, r.lastPc)) := by
      unfold stateBody
      rw [rc_of_mute a1'.mute]
      simp [h1]
    have hw : ∀ k, (s1.answerAll t .ok).watches k t = s.watches k t := fun k => by
      rw [watches_of_mute a1'.mute]; simp [hs1]
    rw [e]
    refine ((a1'.then a2 (fun k => by simp)).after (s := s) rfl rfl fun _ => rfl).congr ?_ ?_ fun k => ?_
    · rw [a1'.mute]
      simp only [haltedEntry, haltAnswers, he, ← hr, Bool.false_and, Bool.false_eq_true, if_false, hs1, leaves_modRc, modRc_modRc]
      have hfilt : (r.waiters.filter fun _ => true) = r.waiters := List.filter_eq_self.2 fun _ _ => rfl
      simp only [hfilt]
      refine congrArg mute (modRc_congr _ t ?_)
      simp [haltedRc, he, ← hr]
    · simp [haltAnswers, he]
    · simp [toWatchers, hw, b2, haltNotices, he]

/-! ### RUNNING -/

/-- An entry to RUNNING (R4, R5, R8): the RESUME waiters are answered, one STATE notice. -/
theorem enterRunning_does :
    s.Does (s.enterRunning t) ((s.leaves (kindAnswers (s.rc t) .resume (s.rc t).hold)).modRc t runningRc)
      (kindAnswers (s.rc t) .resume (s.rc t).hold) (s.toWatchers t [.state t .running (s.rc t).hold (s.rc t).lock none]) := by
  set s1 := s.modRc t fun r => { r with run := .running, stopCause := none, relDefer := false } with hs1
  have h1 : s1.rc t = { s.rc t with run := .running, stopCause := none, relDefer := false } := by rw [hs1, modRc_rc_self]
  have a1 := s1.answerWaiters_does t (fun w => w.kind == .resume) .ok
  rw [h1] at a1
  have a1' : s1.Does (s1.answerResumes t) _ _ _ := a1
  have a2 := notifyState_does (s1.answerResumes t) t
  have b2 : (s1.answerResumes t).stateBody t = .state t .running (s.rc t).hold (s.rc t).lock none := by
    unfold stateBody
    rw [rc_of_mute a1'.mute]
    simp [h1]
  have hw : ∀ k, (s1.answerResumes t).watches k t = s.watches k t := fun k => by
    rw [watches_of_mute a1'.mute]; simp [hs1]
  have e : s.enterRunning t = (s1.answerResumes t).notifyState t := rfl
  rw [e]
  refine ((a1'.then a2 (fun k => by simp)).after (s := s) rfl rfl fun _ => rfl).congr ?_ ?_ fun k => ?_
  · rw [a1'.mute]
    simp only [hs1, leaves_modRc, modRc_modRc]
    refine congrArg mute (modRc_congr _ t ?_)
    simp [runningRc]
    rfl
  · simp [kindAnswers]
  · simp [toWatchers, hw, b2]

/-- A target found running is entered RUNNING, or stopped where somebody holds it (R16, R22). -/
theorem runOrStop_does :
    s.Does (s.runOrStop t) (s.runEntry t) (runAnswers (s.rc t)) (s.toWatchers t (runNotices t (s.rc t))) := by
  unfold runOrStop runEntry runAnswers runNotices runEntered
  by_cases h : (s.rc t).hold.isEmpty = true
  · simp only [h, if_true]
    exact s.enterRunning_does t
  · simp only [h, Bool.false_eq_true, if_false]
    exact s.stop_does t

/-! ### The end of a step sequence and of a target reset -/

/-- A sequence that ends early (R37): its response, and the record is absent. -/
theorem failSeq_does (st : Status) :
    s.Does (s.failSeq t st)
      ((s.leaves (((s.rc t).stepSeq.map fun q => seqAnswer (s.rc t) q st).getD [])).modRc t fun r => { r with stepSeq := none })
      (((s.rc t).stepSeq.map fun q => seqAnswer (s.rc t) q st).getD []) fun _ => [] := by
  unfold failSeq
  cases hq : (s.rc t).stepSeq with
  | none =>
    refine (Does.silent (s := s) rfl rfl).congr (congrArg mute ?_) rfl fun _ => rfl
    show s = s.modRc t fun r => { r with stepSeq := none }
    conv_lhs => rw [show s = s.modRc t fun r => r by simp [modRc, modTarget]]
    exact modRc_congr s t (by rw [← hq])
  | some q =>
    simp only [respondStep, Option.map_some, Option.getD_some, seqAnswer]
    by_cases hd : q.discard = true
    · simp only [hd, if_true]
      exact Does.silent rfl rfl
    · simp only [hd, Bool.false_eq_true, if_false]
      obtain ⟨h1, h2⟩ := s.respondDeferred_spec q.session
        { tag := q.tag, status := st, kind := 0x12, payload := byteOf q.done :: bytes24 (s.rc t).lastPc }
      exact ⟨modRc_of_mute h1 t _, h2.then_nothing rfl rfl⟩

/-- The end of a target reset (R191): its response, and the record is absent. -/
theorem endReset_does (st : Status) (payload : List Byte) :
    s.Does (s.endReset t st payload)
      ((s.leaves (((s.rc t).resetRec.map fun q => resetAnswer q st payload).getD [])).modRc t fun r =>
        { r with resetRec := none, resetTimer := if r.resetRec.isSome then none else r.resetTimer })
      (((s.rc t).resetRec.map fun q => resetAnswer q st payload).getD []) fun _ => [] := by
  unfold endReset
  cases hq : (s.rc t).resetRec with
  | none =>
    refine (Does.silent (s := s) rfl rfl).congr (congrArg mute ?_) rfl fun _ => rfl
    show s = s.modRc t fun r => { r with resetRec := none, resetTimer := if r.resetRec.isSome then none else r.resetTimer }
    conv_lhs => rw [show s = s.modRc t fun r => r by simp [modRc, modTarget]]
    exact modRc_congr s t (by simp [hq]; rw [← hq])
  | some q =>
    simp only [Option.map_some, Option.getD_some, resetAnswer]
    have hc : ∀ x : State, x.rc t = s.rc t → (x.modRc t fun r => { r with resetRec := none, resetTimer := none }) =
        x.modRc t fun r => { r with resetRec := none, resetTimer := if r.resetRec.isSome then none else r.resetTimer } :=
      fun x hx => modRc_congr x t (by simp [hx, hq])
    by_cases hd : q.discard = true
    · simp only [hd, if_true, leaves_nil]
      rw [hc s rfl]
      exact Does.silent rfl rfl
    · simp only [hd, Bool.false_eq_true, if_false]
      obtain ⟨h1, h2⟩ := s.respondDeferred_spec q.session { tag := q.tag, status := st, kind := 0x51, payload }
      rw [hc _ (by rw [rc_of_mute h1, leaves_rc])]
      exact ⟨modRc_of_mute h1 t _, h2.then_nothing rfl rfl⟩

/-! ### UNRESPONSIVE -/

/-- An entry to UNRESPONSIVE (R19): every answer owed is given, and one STATE notice. -/
theorem enterUnresponsive_does :
    s.Does (s.enterUnresponsive t) (s.unresponsiveEntry t) (allWorkAnswers (s.rc t) .unresponsive .timeout)
      (s.toWatchers t [.state t .unresponsive (s.rc t).hold (s.rc t).lock none]) := by
  set r := s.rc t with hr
  have a1 := s.endReset_does t .unresponsive []
  set x1 := s.endReset t .unresponsive [] with hx1
  have r1 : x1.rc t = { r with resetRec := none, resetTimer := if r.resetRec.isSome then none else r.resetTimer } := by
    rw [rc_of_mute a1.mute]; simp [hr]
  have a2' := x1.answerWaiters_does t (fun _ => true) .unresponsive
  set x2 := x1.answerAll t .unresponsive with hx2
  have a2 : x1.Does x2 _ _ _ := a2'
  have hfilt : ((x1.rc t).waiters.filter fun _ => true) = r.waiters := by
    rw [r1]; exact List.filter_eq_self.2 fun _ _ => rfl
  have r2 : x2.rc t = { r with
      resetRec := none, resetTimer := if r.resetRec.isSome then none else r.resetTimer, waiters := [] } := by
    rw [rc_of_mute a2.mute]; simp [r1]
  have a3 := x2.failSeq_does t .timeout
  set x3 := x2.failSeq t .timeout with hx3
  have r3 : x3.rc t = { r with
      resetRec := none, resetTimer := if r.resetRec.isSome then none else r.resetTimer, waiters := [], stepSeq := none } := by
    rw [rc_of_mute a3.mute]; simp [r2]
  set x4 := x3.modRc t fun r => { r with relDefer := false } with hx4
  have e : s.enterUnresponsive t = x4.setRun t .unresponsive := rfl
  have a5 := (x4.setRun_does t .unresponsive).after (s := x3) rfl rfl fun _ => rfl
  have m1 : x1.mute = _ := a1.mute
  have m2 : x2.mute = _ := a2.mute
  have m3 : x3.mute = _ := a3.mute
  have o1 : ∀ k, x1.isOpen k = s.isOpen k := fun k => by rw [isOpen_of_mute m1]; simp
  have o2 : ∀ k, x2.isOpen k = x1.isOpen k := fun k => by rw [isOpen_of_mute m2]; simp
  have o3 : ∀ k, x3.isOpen k = x2.isOpen k := fun k => by rw [isOpen_of_mute m3]; simp
  have w : ∀ k, x4.watches k t = s.watches k t := fun k => by
    rw [hx4, modRc_watches, watches_of_mute m3, modRc_watches, watches_leaves, watches_of_mute m2, modRc_watches, watches_leaves,
      watches_of_mute m1, modRc_watches, watches_leaves]
  rw [e]
  refine (a1.trans o1 (a2.trans o2 (a3.trans o3 a5))).congr ?_ ?_ fun k => ?_
  · rw [hx4]
    simp only [modRc_modRc, mute_modRc, m3, mute_leaves, m2, m1, unresponsiveEntry, allWorkAnswers, ← hr, leaves_append, allAnswers,
      leaves_modRc]
    rw [hfilt]
    have hans : ((x2.rc t).stepSeq.map fun q => seqAnswer (x2.rc t) q .timeout).getD [] =
        (r.stepSeq.map fun q => seqAnswer r q .timeout).getD [] := by rw [r2]; rfl
    have hhold : (x1.rc t).hold = r.hold := by rw [r1]
    rw [hans, hhold]
    refine modRc_congr _ t ?_
    simp
  · rw [hfilt]
    have hans : ((x2.rc t).stepSeq.map fun q => seqAnswer (x2.rc t) q .timeout).getD [] =
        (r.stepSeq.map fun q => seqAnswer r q .timeout).getD [] := by rw [r2]; rfl
    have hhold : (x1.rc t).hold = r.hold := by rw [r1]
    rw [hans, hhold]
    simp [allWorkAnswers, allAnswers, ← hr]
  · have r4 : (x4.rc t).hold = r.hold ∧ (x4.rc t).lock = r.lock := by rw [hx4, modRc_rc_self, r3]; exact ⟨rfl, rfl⟩
    simp only [toWatchers, w, List.nil_append, r4.1, r4.2, reduceCtorEq, if_false]

/-! ### Claims -/

/-- The messages and the record of a claim, by the run state it finds (Table 1-3, R11, R12, R33). `c` is the stop cause it brings. -/
def claimRc (n : Index) (c : StopCause) (a : AccessEngine) (r : RunControl) : RunControl :=
  { r with
    run := haltRun r a
    hold := r.hold.add n
    stopCause := if haltNamesStop r.run then some (r.stopCause.getD c) else r.stopCause
    relDefer := if r.run = .running ∨ r.run = .svcPending then false else r.relDefer
    stepSeq :=
      if r.run = .stepping then
        r.stepSeq.map fun q =>
          { q with interrupted := true, brk := q.brk.or (match c with | .brk h => some h | .requested _ => none | .self => none) }
      else r.stepSeq }

/-- The notices of a claim: one where the run state changes, and one where the hold set changes in HALTED. -/
def claimNotices (t n : Index) (r : RunControl) (a : AccessEngine) : List NoticeBody :=
  if haltRun r a ≠ r.run then [.state t (haltRun r a) (r.hold.add n) r.lock none]
  else if r.run = .halted ∧ r.hold.has n = false then [.state t .halted (r.hold.add n) r.lock (some (r.haltCause, r.lastPc))]
  else []

/-- A claim added to the hold set: HALT and HALT-action fires alike. -/
theorem claim_does (c : StopCause) :
    s.Does (s.claim t n c) (haltMessages t (s.rc t) (s.acc t) (s.modRc t (claimRc n c (s.acc t)))) []
      (s.toWatchers t (claimNotices t n (s.rc t) (s.acc t))) := by
  have hs : ∀ f : RunControl → RunControl, f (s.rc t) = claimRc n c (s.acc t) (s.rc t) →
      s.modRc t f = s.modRc t (claimRc n c (s.acc t)) := fun f hf => modRc_congr s t hf
  have hstop : ∀ x : State, x.stop t = ((x.modRc t stoppingRc).handRc t .stop).notifyState t := fun x => by
    simp only [stop, setStopCause, setRun, modRc_modRc]
    rw [modRc_handRc]
    refine congrArg (notifyState t) (modRc_congr _ t ?_)
    simp [stoppingRc]
  have quiet : ∀ y : State, y.links = s.links → y.notices = s.notices → y.sessions = s.sessions →
      s.Does (y.notifyState t) y [] (s.toWatchers t [y.stateBody t]) := fun y h1 h2 h3 =>
    ((notifyState_does y t).after (s := s) h1 h2 fun k => isOpen_congr h3 k).congr rfl rfl fun k => by
      simp only [toWatchers, watches_congr h3]
  unfold claim
  cases hrun : (s.rc t).run with
  | running =>
    simp only [setStopCause, modRc_modRc]
    rw [hstop, modRc_modRc]
    rw [hs _ (by simp [claimRc, stoppingRc, haltRun, haltNamesStop, hrun])]
    refine (quiet _ (by simp) (by simp) (by simp)).congr ?_ rfl fun k => ?_
    · simp [haltMessages, hrun]
    · have : claimNotices t n (s.rc t) (s.acc t) = [.state t .stopping ((s.rc t).hold.add n) (s.rc t).lock none] := by
        simp [claimNotices, haltRun, hrun]
      rw [this]
      simp [toWatchers, stateBody, claimRc, haltRun, hrun]
  | stopping =>
    simp only [setStopCause, modRc_modRc]
    rw [hs _ (by simp [claimRc, haltRun, haltNamesStop, hrun])]
    refine (s.still t _).congr ?_ rfl fun k => ?_
    · simp [haltMessages, hrun]
    · simp [toWatchers, claimNotices, haltRun, hrun]
  | releasing =>
    simp only [setStopCause, modRc_modRc]
    rw [hs _ (by simp [claimRc, haltRun, haltNamesStop, hrun])]
    refine (s.still t _).congr ?_ rfl fun k => ?_
    · simp [haltMessages, hrun]
    · simp [toWatchers, claimNotices, haltRun, hrun]
  | svcPending =>
    simp only [setStopCause, modRc_modRc]
    rw [hstop, modRc_cancelService]
    have hcan : ∀ f : RunControl → RunControl, f (s.rc t) = claimRc n c (s.acc t) (s.rc t) →
        (s.cancelService t).modRc t f = (s.cancelService t).modRc t (claimRc n c (s.acc t)) := fun f hf =>
      modRc_congr _ t (by simpa using hf)
    rw [modRc_modRc, hcan _ (by simp [claimRc, stoppingRc, haltRun, haltNamesStop, hrun])]
    refine (quiet _ ?_ ?_ ?_).congr ?_ rfl fun k => ?_
    · simp [cancelService, hand_eq, clearOutstanding]
    · simp [cancelService, hand_eq, clearOutstanding]
    · simp [cancelService, hand_eq, clearOutstanding]
    · simp only [haltMessages, hrun, modRc_cancelService]
    · have : claimNotices t n (s.rc t) (s.acc t) = [.state t .stopping ((s.rc t).hold.add n) (s.rc t).lock none] := by
        simp [claimNotices, haltRun, hrun]
      rw [this]
      simp [toWatchers, stateBody, claimRc, haltRun, hrun]
  | service =>
    by_cases hf : (s.acc t).inFlight = true
    · simp only [hf, if_true, setStopCause, modRc_modRc]
      rw [hs _ (by simp [claimRc, haltRun, haltNamesStop, hrun, hf])]
      refine (s.still t _).congr ?_ rfl fun k => ?_
      · simp [haltMessages, hrun, hf]
      · simp [toWatchers, claimNotices, haltRun, hrun, hf]
    · simp only [hf, Bool.false_eq_true, if_false, setStopCause, modRc_modRc, exitHold, setRun]
      rw [modRc_handRc, modRc_modRc]
      have hh : ∀ f : RunControl → RunControl, f (s.rc t) = claimRc n c (s.acc t) (s.rc t) →
          (s.handRc t .svcExitHold).modRc t f = (s.handRc t .svcExitHold).modRc t (claimRc n c (s.acc t)) := fun f hf =>
        modRc_congr _ t (by simpa using hf)
      rw [hh _ (by simp [claimRc, haltRun, haltNamesStop, hrun, hf])]
      refine (quiet _ (by simp) (by simp) (by simp)).congr ?_ rfl fun k => ?_
      · simp [haltMessages, hrun, hf, modRc_handRc]
      · have : claimNotices t n (s.rc t) (s.acc t) = [.state t .stopping ((s.rc t).hold.add n) (s.rc t).lock none] := by
          simp [claimNotices, haltRun, hrun, hf]
        rw [this]
        simp [toWatchers, stateBody, claimRc, haltRun, hrun, hf]
  | stepping =>
    simp only [interruptSeq, modSeq, modRc_modRc]
    rw [hs _ (by cases c <;> simp [claimRc, haltRun, haltNamesStop, hrun])]
    refine (s.still t _).congr ?_ rfl fun k => ?_
    · simp [haltMessages, hrun]
    · simp [toWatchers, claimNotices, haltRun, hrun]
  | halted =>
    rw [hs _ (by simp [claimRc, haltRun, haltNamesStop, hrun])]
    by_cases hh : (s.rc t).hold.has n = true
    · simp only [hh, if_true]
      refine (s.still t _).congr ?_ rfl fun k => ?_
      · simp [haltMessages, hrun]
      · simp [toWatchers, claimNotices, haltRun, hrun, hh]
    · simp only [hh, Bool.false_eq_true, if_false]
      refine (quiet (s.modRc t _) rfl rfl rfl).congr ?_ rfl fun k => ?_
      · simp [haltMessages, hrun]
      · have : claimNotices t n (s.rc t) (s.acc t) =
            [.state t .halted ((s.rc t).hold.add n) (s.rc t).lock (some ((s.rc t).haltCause, (s.rc t).lastPc))] := by
          simp [claimNotices, haltRun, hrun, hh]
        rw [this]
        simp [toWatchers, stateBody, claimRc, haltRun, hrun]
  | resetting =>
    rw [hs _ (by simp [claimRc, haltRun, haltNamesStop, hrun])]
    refine (s.still t _).congr ?_ rfl fun k => ?_
    · simp [haltMessages, hrun]
    · simp [toWatchers, claimNotices, haltRun, hrun]
  | detached =>
    rw [hs _ (by simp [claimRc, haltRun, haltNamesStop, hrun])]
    refine (s.still t _).congr ?_ rfl fun k => ?_
    · simp [haltMessages, hrun]
    · simp [toWatchers, claimNotices, haltRun, hrun]
  | unresponsive =>
    rw [hs _ (by simp [claimRc, haltRun, haltNamesStop, hrun])]
    refine (s.still t _).congr ?_ rfl fun k => ?_
    · simp [haltMessages, hrun]
    · simp [toWatchers, claimNotices, haltRun, hrun]

end Sys2Proof.Machine.State
end

