-- ==== Sys2Proof/Laws/Accesses.lean ====
section
/-! SUPPORT. The Access Engine's shared operations in closed form, and an examination round by round. -/

namespace Sys2Proof.Machine.State

variable (s : State) (t : Index)

/-- The response of an access, unless its discard field is set. -/
theorem respondAccess_does (e : AccEntry) (st : Status) (payload : List Byte) :
    s.Does (s.respondAccess e st payload) (s.leaves (accessAnswer e st payload)) (accessAnswer e st payload) fun _ => [] := by
  unfold respondAccess accessAnswer
  by_cases hd : e.discard = true
  · simp only [hd, if_true]; exact Does.silent rfl rfl
  · simp only [hd, Bool.false_eq_true, if_false]
    have hp : (if st ≠ .ok ∧ e.isWrite = true then [flagByte e.written] else payload) =
        if e.isWrite = true ∧ st ≠ .ok then [flagByte e.written] else payload := by simp only [and_comm]
    rw [hp]
    obtain ⟨h1, h2⟩ := s.respondDeferred_spec e.session
      { tag := e.tag, status := st, kind := if e.isWrite then 0x31 else 0x30
        payload := if e.isWrite = true ∧ st ≠ .ok then [flagByte e.written] else payload }
    exact ⟨h1, h2⟩

theorem leaves_modAcc (f : AccessEngine → AccessEngine) (rs : List Answer) : (s.modAcc t f).leaves rs = (s.leaves rs).modAcc t f := by
  induction rs generalizing s with
  | nil => rfl
  | cons r rs ih => exact ih (s.leaveWindow r.1 r.2.tag)

/-- The head of the queue fails: it leaves the queue and is answered. -/
theorem failHead_does {e : AccEntry} {rest : List AccEntry} (h : (s.acc t).queue = e :: rest) (st : Status) :
    s.Does (s.failHead t st) ((s.leaves (accessAnswer e st [])).modAcc t fun a => { a with queue := rest })
      (accessAnswer e st []) fun _ => [] := by
  unfold failHead
  simp only [h]
  exact ((respondAccess_does (s.modAcc t fun a => { a with queue := rest }) e st []).after (s := s) rfl rfl fun _ => rfl).congr
    (by rw [leaves_modAcc]) rfl fun _ => rfl

theorem failHead_of_empty (h : (s.acc t).queue = []) (st : Status) : s.failHead t st = s := by
  simp [failHead, h]

/-- The access in flight ends (R79). -/
theorem endAccess_does {e : AccEntry} {rest : List AccEntry} (h : (s.acc t).queue = e :: rest) (st : Status) (payload : List Byte) :
    s.Does (s.endAccess t st payload) (s.accessEnded t e st payload) (accessAnswer e st payload) fun _ => [] := by
  unfold endAccess accessEnded
  simp only [h]
  have hq : ∀ x : State, x.acc t = s.acc t → (x.modAcc t fun a =>
      { queue := rest, exchange := none, batch := if (s.rc t).run = .service then a.batch + 1 else a.batch : AccessEngine }) =
      x.modAcc t fun a =>
        { queue := a.queue.tail, exchange := none, batch := if (s.rc t).run = .service then a.batch + 1 else a.batch } := by
    intro x hx
    refine modAcc_congr x t ?_
    rw [hx, h]; rfl
  rw [hq s rfl]
  exact ((respondAccess_does (s.modAcc t _) e st payload).after (s := s) rfl rfl fun _ => rfl).congr (by rw [leaves_modAcc]) rfl
    fun _ => rfl

/-- The head begins its first exchange (R76, R77). -/
theorem startHead_eq {e : AccEntry} {rest : List AccEntry} (h : (s.acc t).queue = e :: rest) :
    s.startHead t = s.accHanded t e e.op (firstPhase e) := by
  unfold startHead accHanded
  simp only [h]
  unfold setHead handAcc
  rw [hand_eq _ _ (by simp)]
  simp only [modAcc_port, modAcc_cfg]
  simp only [modPort_modPort, modAcc_modAcc, ← modAcc_modPort]
  obtain ⟨_, _, op, _, _, _, _, _⟩ := e
  cases op <;> rfl

/-! ### Examinations -/

/-- How many more rounds an examination can take: one for each entry, and one to leave SERVICE. -/
def rounds (s : State) (t : Index) : Nat := (s.acc t).queue.length + if (s.rc t).run = .service then 1 else 0

/-- A failing verdict is given to a head that is not in flight. -/
theorem queue_of_fail {r : RunControl} {a : AccessEngine} {i : Bool} {st : Status} (h : verdict r a i = .fail st) :
    ∃ e rest, a.queue = e :: rest := by
  cases hq : a.queue with
  | cons e rest => exact ⟨e, rest, rfl⟩
  | nil =>
    exfalso
    unfold verdict verdictService at h
    simp only [hq] at h
    cases hr : r.run <;> simp only [hr] at h <;> split_ifs at h

/-- An episode ends with SVC_EXIT(resume) in SERVICE only. -/
theorem service_of_exitResume {r : RunControl} {a : AccessEngine} {i : Bool} (h : verdict r a i = .exitResume) : r.run = .service := by
  unfold verdict at h
  split at h
  · exact absurd h (by simp)
  · cases hr : r.run <;> simp only [hr] at h <;> first | rfl | skip
    all_goals first | exact absurd h (by simp) | skip
    all_goals (split at h <;> first | exact absurd h (by simp) | skip)
    all_goals first
      | (unfold verdictHalted at h; split_ifs at h)
      | (unfold verdictRunning at h; split_ifs at h)

theorem rounds_failHead {st st' : Status} (h : verdict (s.rc t) (s.acc t) (s.cfg t).intrusive = .fail st') :
    (s.failHead t st).rounds t + 1 = s.rounds t := by
  obtain ⟨e, rest, hq⟩ := queue_of_fail h
  have hm := (s.failHead_does t hq st).mute
  unfold rounds
  rw [rc_of_mute hm, acc_of_mute hm]
  simp [hq]; omega

theorem rounds_exitResume (h : verdict (s.rc t) (s.acc t) (s.cfg t).intrusive = .exitResume) :
    (s.exitResume t).rounds t + 1 = s.rounds t := by
  have hs := service_of_exitResume h
  have hm := ((s.hand t (.svcExit false)).enterRunning_does t).mute
  unfold rounds exitResume
  rw [rc_of_mute hm, acc_of_mute hm]
  simp [hand_eq, hs, runningRc]

/-- With enough rounds the number of them does not matter. -/
theorem examineFor_enough : ∀ (n : Nat) (s : State), s.rounds t < n → s.examineFor n t = s.examineFor (s.rounds t + 1) t := by
  intro n
  induction n with
  | zero => intro s h; omega
  | succ n ih =>
    intro s h
    unfold examineFor
    cases hv : verdict (s.rc t) (s.acc t) (s.cfg t).intrusive with
    | wait => rfl
    | start => rfl
    | beginService => rfl
    | exitHold => rfl
    | fail st =>
      have h1 := s.rounds_failHead t (st := st) hv
      simp only
      rw [ih _ (by omega), ← h1]
    | exitResume =>
      have h1 := s.rounds_exitResume t hv
      simp only
      rw [ih _ (by omega), ← h1]

theorem examine_eq : s.examine t = s.examineFor (s.rounds t + 1) t := by
  unfold examine
  refine examineFor_enough t _ s ?_
  unfold rounds
  split <;> omega

/-- One round of an examination. -/
theorem examine_round : s.examine t =
    match verdict (s.rc t) (s.acc t) (s.cfg t).intrusive with
    | .wait => s
    | .fail st => (s.failHead t st).examine t
    | .start => s.startHead t
    | .beginService => s.beginService t
    | .exitHold => s.exitHold t
    | .exitResume => (s.exitResume t).examine t := by
  conv_lhs => rw [examine_eq]; unfold examineFor
  cases hv : verdict (s.rc t) (s.acc t) (s.cfg t).intrusive with
  | wait => rfl
  | start => rfl
  | beginService => rfl
  | exitHold => rfl
  | fail st =>
    have h1 := s.rounds_failHead t (st := st) hv
    simp only
    rw [examine_eq, h1]
  | exitResume =>
    have h1 := s.rounds_exitResume t hv
    simp only
    rw [examine_eq, h1]

/-- An access in flight, or a run state that makes the head wait, ends an examination at once. -/
theorem examine_of_wait (h : verdict (s.rc t) (s.acc t) (s.cfg t).intrusive = .wait) : s.examine t = s := by
  rw [examine_round, h]

end Sys2Proof.Machine.State
end

