-- ==== Sys2Proof/Laws/Links.lean ====
section
/-! SUPPORT. Bytes of fields and of frames, and a run of bytes taken by a receiver in RECEIVING. -/

namespace Sys2Proof

/-! ### Multi-byte fields -/

theorem half_bytes16 (h : Half) : half (h.extractLsb' 8 8) (h.extractLsb' 0 8) = h := by
  unfold half
  ext i hi
  simp only [BitVec.getElem_append, BitVec.getElem_extractLsb']
  split <;> (rw [← BitVec.getLsbD_eq_getElem]; congr 1; omega)

theorem addr_bytes24 (a : Addr) : addr (a.extractLsb' 16 8) (a.extractLsb' 8 8) (a.extractLsb' 0 8) = a := by
  unfold addr
  ext i hi
  simp only [BitVec.getElem_append, BitVec.getElem_extractLsb']
  split
  · rw [← BitVec.getLsbD_eq_getElem]; congr 1; omega
  · split <;> (rw [← BitVec.getLsbD_eq_getElem]; congr 1; omega)

theorem word_bytes32 (w : Word) : word (w.extractLsb' 24 8) (w.extractLsb' 16 8) (w.extractLsb' 8 8) (w.extractLsb' 0 8) = w := by
  unfold word
  ext i hi
  simp only [BitVec.getElem_append, BitVec.getElem_extractLsb']
  split
  · rw [← BitVec.getLsbD_eq_getElem]; congr 1; omega
  · split
    · rw [← BitVec.getLsbD_eq_getElem]; congr 1; omega
    · split <;> (rw [← BitVec.getLsbD_eq_getElem]; congr 1; omega)

@[simp] theorem bytes16_length (h : Half) : (bytes16 h).length = 2 := rfl
@[simp] theorem bytes24_length (a : Addr) : (bytes24 a).length = 3 := rfl
@[simp] theorem bytes32_length (w : Word) : (bytes32 w).length = 4 := rfl

/-- A request's operands fit a frame: the length byte is at most 14 (R148). -/
theorem Request.ops_length_le (q : Request) : q.ops.length ≤ 11 := by
  cases q <;> simp [Request.ops, bytes16, bytes24, bytes32] <;> split <;> simp

/-- No request has a notice's kind code: each kind is one of Table 8-3's request codes. -/
theorem Request.kind_mem (q : Request) : q.kind ∈ Request.kinds := by
  cases q <;> simp [Request.kind, Request.kinds]

theorem toIndex?_indexByte (t : Index) : toIndex? (Machine.indexByte t) = some t := by
  fin_cases t <;> decide

namespace Machine.State

variable (s : State) (l : Index)

/-! ### The receiver -/

/-- Bytes short of the check byte, taken in RECEIVING, join the frame (R154). -/
theorem foldl_gather (n : Byte) : ∀ (bs body : List Byte) (s : State), (s.link l).rx = .receiving (n :: body) →
    body.length + bs.length ≤ n.toNat →
    bs.foldl (receiveByte l) s = if bs = [] then s else
      s.modLink l fun u => { u with rx := .receiving (n :: (body ++ bs)), gapTimer := some Config.gapLimit } := by
  intro bs
  induction bs with
  | nil => intro body s _ _; simp
  | cons b bs ih =>
    intro body s hrx hlen
    have e : receiveByte l s b =
        s.modLink l fun u => { u with rx := .receiving (n :: (body ++ [b])), gapTimer := some Config.gapLimit } := by
      unfold receiveByte
      simp only [hrx, gatherByte]
      rw [if_neg]
      simp only [List.length_cons] at hlen; omega
    rw [List.foldl_cons, e, ih (body ++ [b]) _ (by simp) (by simp at hlen ⊢; omega)]
    by_cases hb : bs = []
    · simp [hb]
    · simp [hb]

/-- The start byte and a length in range begin a frame (R154). -/
theorem receive_start_length {n : Byte} (hrx : (s.link l).rx = .idle) (h1 : 3 ≤ n.toNat) (h2 : n.toNat ≤ 14) :
    receiveByte l (receiveByte l s requestStart) n =
      s.modLink l fun u => { u with rx := .receiving [n], gapTimer := some Config.gapLimit } := by
  have e : receiveByte l s requestStart = s.modLink l fun u => { u with rx := .receiving [], gapTimer := some Config.gapLimit } := by
    unfold receiveByte; simp [hrx]
  rw [e]
  unfold receiveByte
  simp only [modLink_link_self, gatherByte]
  rw [if_neg (by simp only [Config.minLength, Config.maxLength]; omega)]
  simp

/-- The check byte completes the frame (R154). -/
theorem receive_check {n b : Byte} {body : List Byte} (hrx : (s.link l).rx = .receiving (n :: body)) (h : body.length = n.toNat) :
    receiveByte l s b = s.endFrame l n body b := by
  unfold receiveByte
  simp [hrx, gatherByte, h]

/-- With no routed request waiting, a frame whose check agrees is a good frame. -/
theorem endFrame_good {n b : Byte} {body : List Byte} (hr : (s.link l).routed = none) (h : crc8 (n :: body) = b) :
    s.endFrame l n body b = (s.modLink l fun u => { u with rx := .idle, gapTimer := none }).goodFrame l body := by
  unfold endFrame
  simp only [takeRouted, modLink_link_self, hr, h, if_true]

/-- A discarded frame touches its own link alone, and its session's notice queue. -/
theorem discardFrame_mute : (s.discardFrame l).mute = (s.modLink l afterDiscard).mute := mute_linkFault _ l

theorem restartLease_mute : (s.restartLease l).mute = s.mute.restartLease l := rfl

end Machine.State

end Sys2Proof
end

