-- ==== Sys2Proof/Laws/Records.lean ====
section
/-! SUPPORT. The Breakpoint Table's lists and the banks: inserting, updating and dropping records. -/

namespace Sys2Proof.Machine

/-! ### The list of records -/

theorem mem_insertRecord {r x : Record} {l : List Record} : x ∈ insertRecord r l ↔ x = r ∨ x ∈ l := by
  induction l with
  | nil => simp [insertRecord]
  | cons y ys ih =>
    unfold insertRecord
    split
    · simp
    · simp only [List.mem_cons, ih]
      tauto

/-- A record whose handle is new keeps the table in handle order. -/
theorem pairwise_insertRecord {r : Record} {l : List Record} (h : l.Pairwise fun x y => x.handle < y.handle)
    (hn : ∀ x ∈ l, x.handle ≠ r.handle) : (insertRecord r l).Pairwise fun x y => x.handle < y.handle := by
  induction l with
  | nil => simp [insertRecord]
  | cons y ys ih =>
    obtain ⟨h1, h2⟩ := List.pairwise_cons.1 h
    unfold insertRecord
    split
    · rename_i hlt
      refine List.pairwise_cons.2 ⟨fun z hz => ?_, h⟩
      rcases List.mem_cons.1 hz with rfl | hz
      · exact hlt
      · exact lt_trans hlt (h1 z hz)
    · rename_i hlt
      refine List.pairwise_cons.2 ⟨fun z hz => ?_, ih h2 fun x hx => hn x (List.mem_cons_of_mem _ hx)⟩
      rcases mem_insertRecord.1 hz with rfl | hz
      · exact lt_of_le_of_ne (not_lt.1 hlt) (hn y List.mem_cons_self)
      · exact h1 z hz

/-- Updating a record changes no handle. -/
theorem map_handle_updateRecord {f : Record → Record} (hf : ∀ x, (f x).handle = x.handle) (h : Handle) (l : List Record) :
    (updateRecord h f l).map (·.handle) = l.map (·.handle) := by
  induction l with
  | nil => rfl
  | cons y ys ih =>
    unfold updateRecord
    split <;> simp [hf, ih]

/-- Reading the record of a handle after an update. -/
theorem find?_updateRecord {f : Record → Record} (hf : ∀ x, (f x).handle = x.handle) (h g : Handle) (l : List Record) :
    (updateRecord h f l).find? (fun r => r.handle == g) =
      if g = h then (l.find? fun r => r.handle == g).map f else l.find? fun r => r.handle == g := by
  induction l with
  | nil => simp [updateRecord]
  | cons y ys ih =>
    unfold updateRecord
    by_cases hy : y.handle = h
    · subst hy
      by_cases hg : g = y.handle
      · subst hg; simp [hf]
      · have hg' : ¬ y.handle = g := fun e => hg e.symm
        simp [hf, hg, hg']
    · by_cases hg : y.handle = g
      · subst hg; simp [hy]
      · simp [hy, hg, ih]

namespace State

variable (s : State) (h g : Handle) (t c : Index)

theorem record?_modRecord {f : Record → Record} (hf : ∀ x, (f x).handle = x.handle) :
    (s.modRecord h f).record? g = if g = h then (s.record? g).map f else s.record? g :=
  find?_updateRecord hf h g s.records

@[simp] theorem modRecord_links (f : Record → Record) : (s.modRecord h f).links = s.links := rfl
@[simp] theorem modRecord_sessions (f : Record → Record) : (s.modRecord h f).sessions = s.sessions := rfl
@[simp] theorem modRecord_notices (f : Record → Record) : (s.modRecord h f).notices = s.notices := rfl
@[simp] theorem modRecord_targets (f : Record → Record) : (s.modRecord h f).targets = s.targets := rfl
@[simp] theorem modRecord_pending (f : Record → Record) : (s.modRecord h f).pending = s.pending := rfl
@[simp] theorem mute_modRecord (f : Record → Record) : (s.modRecord h f).mute = s.mute.modRecord h f := rfl

/-- The record found under a handle has that handle and stands in the table. -/
theorem record?_eq_some {x : Record} (hx : s.record? h = some x) : x ∈ s.records ∧ x.handle = h :=
  ⟨List.mem_of_find?_eq_some hx, by simpa using List.find?_some hx⟩

/-- What deletion does to the bank of a target: every comparator drops the deleted handles. -/
theorem bank_dropRecords (gone : Record → Bool) : ((s.dropRecords gone).bank t).get c =
    Comparator.drop (fun h => s.records.any fun r => r.handle == h && gone r) ((s.bank t).get c) := by
  simp [dropRecords, bank, target]

@[simp] theorem rc_dropRecords (gone : Record → Bool) : (s.dropRecords gone).rc t = s.rc t := by simp [dropRecords, rc, target]
@[simp] theorem acc_dropRecords (gone : Record → Bool) : (s.dropRecords gone).acc t = s.acc t := by simp [dropRecords, acc, target]
@[simp] theorem port_dropRecords (gone : Record → Bool) : (s.dropRecords gone).port t = s.port t := by simp [dropRecords, port, target]
@[simp] theorem cfg_dropRecords (gone : Record → Bool) : (s.dropRecords gone).cfg t = s.cfg t := by simp [dropRecords, cfg, target]
@[simp] theorem mute_dropRecords (gone : Record → Bool) : (s.dropRecords gone).mute = s.mute.dropRecords gone := rfl

/-- The watch demand is on exactly when a comparator of the bank is bound (R43). -/
theorem demand_iff : s.demand t = true ↔ ∃ c, ((s.bank t).get c).subs ≠ [] := by
  unfold demand boundCount
  simp only [decide_eq_true_eq, List.length_pos_iff, ne_eq, List.filter_eq_nil_iff, mem_indices, true_implies, not_forall,
    Bool.not_eq_true', List.isEmpty_eq_false_iff]
  simp

/-- A change of the watch demand, sent or kept in the bank (R45, R46). -/
theorem watchChanged_eq : s.watchChanged t = s.watchSent t := by
  have hw : s.sendWatch t = s.modPort t fun p => { p with sendList := p.sendList ++ [.watch (s.demand t)], watchEnable := s.demand t } := by
    simp [sendWatch, hand]
  unfold watchChanged watchSent
  cases hr : (s.rc t).run <;> simp [hw]

end State

end Sys2Proof.Machine
end

