-- ==== Sys2Proof/Laws/Sessions.lean ====
section
/-! SUPPORT. The end of a session: the order in which the blocks take it, and the closed form of the end; and the examination after an
event that changed the run state. -/

namespace Sys2Proof.Machine

theorem mem_allEndBlocks (b : EndBlock) : b ∈ allEndBlocks := by
  cases b with
  | runControl t => fin_cases t <;> simp [allEndBlocks]
  | access t => fin_cases t <;> simp [allEndBlocks]
  | _ => simp [allEndBlocks]

theorem nodup_eraseDups {α : Type} [BEq α] [LawfulBEq α] : ∀ (k : Nat) (l : List α), l.length ≤ k → l.eraseDups.Nodup
  | _, [], _ => by simp
  | k + 1, a :: as, h => by
    have hl : (as.filter fun b => !b == a).length ≤ k := (List.length_filter_le _ _).trans (Nat.le_of_succ_le_succ h)
    simp [List.eraseDups_cons, List.nodup_cons, nodup_eraseDups k _ hl]

namespace State

theorem everyBlockOnce_allEndBlocks : everyBlockOnce allEndBlocks := ⟨by decide, mem_allEndBlocks⟩

theorem everyBlockOnce_completeOrder (o : List EndBlock) : everyBlockOnce (completeOrder o) :=
  ⟨nodup_eraseDups _ _ le_rfl, fun b => List.mem_eraseDups.2 (List.mem_append_right o (mem_allEndBlocks b))⟩

variable (s : State) (n t : Index)

/-- The end of an open session: the record closes, and every block takes the announcement once. -/
theorem endSession_eq (c : EndCause) (h : s.isOpen n = true) :
    ∃ order, everyBlockOnce order ∧ s.endSession n c = order.foldl (takeEnd n c) (s.closedFor n) := by
  cases he : s.sched.endOrders with
  | nil =>
    refine ⟨allEndBlocks, everyBlockOnce_allEndBlocks, ?_⟩
    have hc : s.closedFor n = s.modSession n fun x => { x with current := none } := by
      obtain ⟨_, _, _, _, _, ⟨_, _⟩, _⟩ := s
      simp_all [closedFor, modSession]
    simp [endSession, h, he, hc]
  | cons o os => exact ⟨completeOrder o, everyBlockOnce_completeOrder o, by simp [endSession, h, he, closedFor]⟩

theorem endSession_of_closed (c : EndCause) (h : s.isOpen n = false) : s.endSession n c = s := by simp [endSession, h]

/-- The examination after an event that changed the run state (R72). -/
theorem examineSince_of_ne {before : State} (h : (s.rc t).run ≠ (before.rc t).run) : s.examineSince before t = s.examine t := by
  simp [examineSince, h]

end State

end Sys2Proof.Machine
end

