-- ==== Sys2Proof/Laws/Step.lean ====
section
/-! SUPPORT. All that a step can do: it runs the front command, hands a waiting routed request to its owner, or idles. No command stops. -/

namespace Sys2Proof.Machine

/-- Every command answers a next state. -/
theorem exec_next (c : Instr) (s : State) : ∃ s', exec c s = .next s' := by
  cases c <;> exact ⟨_, rfl⟩

/-- The three shapes of a step. -/
theorem step_cases {s s' : State} (h : step s = .next s') :
    (∃ c rest, s.pending = c :: rest ∧ exec c { s with pending := rest } = .next s') ∨
      (s.pending = [] ∧ ∃ l ls, s.waitingLinks = l :: ls ∧ s' = s.takeRouted l) ∨
      (s.pending = [] ∧ s.waitingLinks = [] ∧ s' = s) := by
  unfold step at h
  split at h
  · rename_i c rest hp; exact .inl ⟨c, rest, hp, h⟩
  · rename_i hp
    split at h
    · rename_i l ls hw
      cases h; exact .inr (.inl ⟨hp, l, ls, hw, rfl⟩)
    · rename_i hw
      cases h; exact .inr (.inr ⟨hp, hw, rfl⟩)

/-- An invariant that every command and every taking of a routed request keeps, whatever the queue, is kept by every step. -/
theorem step_keeps {P : State → Prop} (hq : ∀ (s : State) (p : List Instr), P s → P { s with pending := p })
    (he : ∀ (c : Instr) (s s' : State), P s → exec c s = .next s' → P s') (hr : ∀ (l : Index) (s : State), P s → P (s.takeRouted l))
    {s s' : State} (h : P s) (hs : step s = .next s') : P s' := by
  rcases step_cases hs with ⟨c, rest, _, hc⟩ | ⟨_, l, _, _, rfl⟩ | ⟨_, _, rfl⟩
  · exact he c _ _ (hq s rest h) hc
  · exact hr l s h
  · exact h

/-- A routed request waits on a link exactly when the link is among those waiting. -/
theorem mem_waitingLinks {s : State} {l : Index} : l ∈ s.waitingLinks ↔ (s.link l).routed.isSome := by
  simp [State.waitingLinks]

end Sys2Proof.Machine
end

