-- ==== Sys2Proof/Tests/Slice0.lean ====
section
/-! SUPPORT. The model's own tests: well-formedness, one step of every command, and a witness for the hypotheses of every obligation
that has some. -/

namespace Sys2Proof.Tests

set_option Elab.async false

open Sys2Proof.Machine

/-! ### A small state -/

/-- An open session of a role. -/
def opened (r : Role) : Session :=
  { capable := r == .supervisor
    current := some { role := r, lease := 30, leaseTimer := some 30, tags := [], watch := .all false } }

/-- S0 is the supervisor, S1 a controller, S2 an observer, S3 CLOSED; every port is ACTIVE with its target RUNNING. -/
def hub : State :=
  { State.reset with
    sessions := ⟨opened .supervisor, opened .controller, opened .observer, .reset .low⟩
    targets := .all { Target.reset true with
      rc := { RunControl.reset with run := .running }
      port := { Port.reset true with link := .active } } }

/-- The same hub with T0 changed. -/
def hubT (f : Target → Target) : State := hub.modTarget 0 f

/-- T0 in a run state, with a hold set and the message outstanding on its port. -/
def inRun (x : RunState) (hold : HoldSet) (m : Option RcMsg) : State :=
  hubT fun y => { y with
    rc := { y.rc with run := x, hold }
    port := { y.port with outstanding := m.map fun c => { msg := c, timer := 5 } } }

/-- Sn alone holds. -/
def heldBy (n : Index) : HoldSet := HoldSet.empty.add n

/-- The state after a command. -/
def after (c : Instr) (s : State) : State :=
  match exec c s with
  | .next s' => s'
  | .fault _ => s
  | .refused _ => s

/-- The responses queued on a link, by status and payload. -/
def replies (s : State) (l : Index) : List (Status × List Byte) := (s.link l).respQ.map fun e => (e.resp.status, e.resp.payload)

/-- The check bytes of the port messages used below. -/
def haltedCheck (flags : Byte) (pc : Addr) : Byte := crc8 (0x81 :: flags :: bytes24 pc)
def runningCheck : Byte := crc8 [0x82]
def grantCheck : Byte := crc8 [0x83]
def replyCheck (n r : Byte) (d : Word) : Byte := crc8 (0x84 :: n :: r :: bytes32 d)
def fetchCheck (a : Addr) : Byte := crc8 (0x85 :: 0 :: bytes24 a)

/-! ### Well-formed messages (R170) -/

theorem test_crc_ping_example : Request.frame 7 .ping = [0xA5, 0x03, 0x07, 0x03, 0x00, crc8 [3, 7, 3, 0]] := by decide +kernel
theorem test_crc_ping_check : crc8 [0x03, 0x07, 0x03, 0x00] = 0x13 := by decide +kernel
theorem test_wf_halted : (Instr.haltedReport 0 3 5 (haltedCheck 3 5)).wellFormed = true := by decide +kernel
theorem test_wf_refuses_halted_flags : (Instr.haltedReport 0 4 5 (haltedCheck 4 5)).wellFormed = false := by decide +kernel
theorem test_wf_refuses_halted_check : (Instr.haltedReport 0 3 5 (haltedCheck 3 5 + 1)).wellFormed = false := by decide +kernel
theorem test_wf_refuses_running_check : (Instr.runningReport 0 0).wellFormed = false := by decide +kernel
theorem test_wf_refuses_grant_check : (Instr.svcGrant 0 0).wellFormed = false := by decide +kernel
theorem test_wf_refuses_reply_result : (Instr.accReply 0 1 2 9 (replyCheck 1 2 9)).wellFormed = false := by decide +kernel
theorem test_wf_refuses_reply_check : (Instr.accReply 0 1 0 9 0x55).wellFormed = false := by decide +kernel
theorem test_wf_refuses_ref_kind : (Instr.ref 0 3 5 none (crc8 (0x85 :: 3 :: bytes24 5))).wellFormed = false := by decide +kernel
theorem test_wf_refuses_ref_length : (Instr.ref 0 1 5 none (crc8 (0x85 :: 1 :: bytes24 5))).wellFormed = false := by decide +kernel
theorem test_wf_refuses_ref_check : (Instr.ref 0 0 5 none 0x77).wellFormed = false := by decide +kernel
theorem test_ill_formed_message_changes_nothing : after (.haltedReport 0 4 5 (haltedCheck 4 5)) hub = hub := by decide +kernel

/-! ### One step of every command -/

theorem test_open : replies (after (.openSession 3 7 1 60) hub) 3 = [(.ok, [1, 60, 3, 0])] := by decide +kernel
theorem test_open_supervisor_taken :
    replies (after (.openSession 3 7 2 60) (hub.modSession 3 fun x => { x with capable := true })) 3 = [(.supervisorTaken, [0])] := by
  decide +kernel
theorem test_close : replies (after (.close 1 7) hub) 1 = [(.ok, [0])] ∧ (after (.close 1 7) hub).isOpen 1 = false := by decide +kernel
theorem test_ping : replies (after (.ping 0 7) hub) 0 = [(.ok, [2, 30, 0, 0])] := by decide +kernel
theorem test_halt_running :
    ((after (.halt 1 7 0) hub).rc 0).run = .stopping ∧ ((after (.halt 1 7 0) hub).port 0).sendList = [.stop] ∧
      (after (.halt 1 7 0) hub).tags 1 = [7] := by decide +kernel
theorem test_halt_halted : replies (after (.halt 1 7 0) (inRun .halted (heldBy 0) none)) 1 = [(.ok, [])] := by decide +kernel
theorem test_resume_releases :
    ((after (.resume 1 7 0) (inRun .halted (heldBy 1) none)).rc 0).run = .releasing ∧
      ((after (.resume 1 7 0) (inRun .halted (heldBy 1) none)).port 0).sendList = [.run] := by decide +kernel
theorem test_resume_still_held :
    replies (after (.resume 1 7 0) (inRun .halted ((heldBy 1).add 0) none)) 1 = [(.ok, [1, 1])] := by decide +kernel
theorem test_step :
    ((after (.step 1 7 0 2) (inRun .halted (heldBy 1) none)).rc 0).run = .stepping ∧
      ((after (.step 1 7 0 2) (inRun .halted (heldBy 1) none)).port 0).sendList = [.step] := by decide +kernel
theorem test_step_not_halted : replies (after (.step 1 7 0 2) hub) 1 = [(.notHalted, [])] := by decide +kernel
theorem test_status :
    replies (after (.status 2 7 0) hub) 2 = [(.ok, [1, 0, 0xFF, 0, 0, 0, 0, 0, 0, 0])] := by decide +kernel
theorem test_lock : replies (after (.lock 1 7 0) hub) 1 = [(.ok, [0, 1])] ∧ ((after (.lock 1 7 0) hub).rc 0).lock = some 1 := by
  decide +kernel
theorem test_unlock_not_owner : replies (after (.unlock 1 7 0) hub) 1 = [(.notOwner, [])] := by decide +kernel
theorem test_frel :
    replies (after (.frel 0 7 0) (inRun .halted ((heldBy 1).add 0) none)) 0 = [(.ok, [1, 0xFF, 2])] := by decide +kernel
theorem test_setbrk :
    replies (after (.setbrk 1 7 0 0x20 5 0xFFFFFF 0) hub) 1 = [(.ok, [0, 0, 0])] ∧
      ((after (.setbrk 1 7 0 0x20 5 0xFFFFFF 0) hub).port 0).sendList = [.watch true] := by decide +kernel
theorem test_setbrk_needs_data : replies (after (.setbrk 1 7 0 0x42 5 0xFFFFFF 0) hub) 1 = [(.badOperand, [])] := by decide +kernel
theorem test_setbrk_data_form :
    ((after (.setbrkDataForm 1 7 3 0xFF) hub).link 1).pendingData = some { value := 3, mask := 0xFF } := by decide +kernel

/-- A PERSISTENT HALT record of S1 on T0, bound to C0. -/
def rec0 : Record :=
  { handle := 0, owner := 1, target := 0, kind := .fetch, address := 5, mask := 0xFFFFFF, cond := none, passes := 0, remaining := 0
    action := .halt, persistence := .persistent, hits := 0, comparator := 0 }

/-- The hub with that record. -/
def withRec (x : Record) : State := hub.bindRecord x

theorem test_clrbrk : (after (.clrbrk 1 7 0) (withRec rec0)).records = [] ∧ replies (after (.clrbrk 1 7 0) (withRec rec0)) 1 = [(.ok, [0, 1])] := by
  decide +kernel
theorem test_qbrk : replies (after (.qbrk 1 7 0 0) (withRec rec0)) 1 = [(.ok, [1, 0, 0, 0, 1, 0, 1, 0])] := by decide +kernel
theorem test_read_running_fails : replies (after (.read 1 7 0 0 5) hub) 1 = [(.notHalted, [])] := by decide +kernel
theorem test_read_halted :
    ((after (.read 2 7 0 1 5) (inRun .halted (heldBy 1) none)).port 0).sendList = [.acc 0 .read .memory 5] := by decide +kernel
theorem test_write_not_held :
    replies (after (.write 0 7 0 1 5 9) (inRun .halted (heldBy 1) none)) 0 = [(.notHeld, [0])] := by decide +kernel

/-- S1's queue holding two entries numbered 4 and 5. -/
def withNotices : State :=
  hub.modNotice 1 fun _ =>
    { entries := [{ seq := 4, body := .linkFault 1, sent := true, keepsCount := false }, { seq := 5, body := .revokedBreak 3 0, sent := true, keepsCount := false }], nextSeq := 6 }

theorem test_ack : replies (after (.ack 1 7 4) withNotices) 1 = [(.ok, [1, 1])] := by decide +kernel
theorem test_replay :
    replies (after (.replay 1 7) withNotices) 1 = [(.ok, [2])] ∧
      (((after (.replay 1 7) withNotices).notice 1).entries.map (·.sent)) = [true, false] := by decide +kernel
/-- S1's queue with a LINK_FAULT sent and a newer one not yet sent, its transmitter busy with a notice. -/
def twoFaults : State :=
  (hub.modNotice 1 fun _ =>
    { entries :=
        [{ seq := 4, body := .linkFault 1, sent := true, keepsCount := false },
         { seq := 5, body := .linkFault 2, sent := false, keepsCount := false }]
      nextSeq := 6 }).modLink 1 fun u => { u with tx := .notice [] }

/-- The counts of S1's LINK_FAULT entries. -/
def counts (s : State) : List NoticeBody := (s.notice 1).entries.map (·.body)

/-- R140: after a REPLAY faults go into the older of two unsent LINK_FAULT entries, and the newer keeps its count until it leaves. -/
theorem test_newer_fault_keeps_count :
    let replayed := after (.replay 1 7) twoFaults
    let resent := after (.frameSent 1) (after (.frameSent 1) replayed)
    counts (replayed.linkFault 1) = [.linkFault 2, .linkFault 2] ∧
      ((resent.notice 1).entries.map (·.sent)) = [true, false] ∧
      counts (resent.linkFault 1) = [.linkFault 1, .linkFault 2, .linkFault 1] ∧
      counts ((resent.linkFault 1).linkFault 1) = [.linkFault 1, .linkFault 2, .linkFault 2] := by decide +kernel

theorem test_watch :
    replies (after (.watch 1 7 1) hub) 1 = [(.ok, [1])] ∧ ((after (.watch 1 7 1) hub).notice 1).entries.length = 1 := by decide +kernel
theorem test_config_read : replies (after (.configRead 2 7 0 0) hub) 2 = [(.ok, [0, 20])] := by decide +kernel
theorem test_config_set : ((after (.configSet 0 7 0 3 9) hub).cfg 0).exchange = 9 := by decide +kernel
theorem test_config_port_off :
    ((after (.configSet 0 7 0 6 0) hub).rc 0).run = .detached ∧ ((after (.configSet 0 7 0 6 0) hub).port 0).link = .disabled := by
  decide +kernel
theorem test_treset :
    ((after (.treset 0 7 0) hub).port 0).sendList = [.rstOn] ∧ ((after (.treset 0 7 0) hub).rc 0).resetTimer = some 10 := by decide +kernel
theorem test_received_start : ((after (.receivedByte 0 0xA5) hub).link 0).rx = .receiving [] := by decide +kernel

/-- L0's receiver changed. -/
def hubL (f : LinkUnit → LinkUnit) : State := hub.modLink 0 f

theorem test_gap_discards :
    ((after (.interByteGapExpiry 0) (hubL fun u => { u with rx := .receiving [], gapTimer := some 4 })).link 0).badFrames = 1 := by
  decide +kernel
theorem test_hunt_ends :
    ((after (.huntIdleExpiry 0) (hubL fun u => { u with rx := .hunt, badFrames := 3, idleTimer := some 10 })).link 0).rx = .idle := by
  decide +kernel
theorem test_link_break : (after (.linkBreak 1) hub).isOpen 1 = false := by decide +kernel
theorem test_frame_sent : ((after (.frameSent 0) (after (.ping 0 7) hub)).link 0).tx = .free := by decide +kernel
theorem test_lease_expiry : (after (.leaseExpiry 1) hub).isOpen 1 = false := by decide +kernel
theorem test_hub_reset :
    (after (.hubReset (.all .low)) hub).sessions = .all (.reset .low) ∧
      ((after (.hubReset (.all .low)) hub).port 2).sendList = [.watch false, .probe] := by decide +kernel

/-- T0 with PRESENT low. -/
def absentT0 : State := hubT fun _ => Target.reset false

theorem test_present_rise : ((after (.presentRise 0) absentT0).port 0).sendList = [.watch false, .probe] := by decide +kernel
theorem test_present_fall : ((after (.presentFall 0) hub).rc 0).run = .detached := by decide +kernel
theorem test_halted_report :
    ((after (.haltedReport 0 0 5 (haltedCheck 0 5)) (inRun .stopping (heldBy 1) (some .stop))).rc 0).run = .halted := by decide +kernel
theorem test_halted_report_self :
    ((after (.haltedReport 0 1 5 (haltedCheck 1 5)) hub).rc 0).hold = HoldSet.empty.addSelf := by decide +kernel
theorem test_running_report :
    ((after (.runningReport 0 runningCheck) (inRun .releasing .empty (some .run))).rc 0).run = .running := by decide +kernel

/-- S2's READ of T0's memory at 5, WAITING. -/
def read0 : AccEntry :=
  { session := 2, tag := 9, op := .read, space := .memory, location := 5, inFlight := false, written := false, discard := false }

/-- T0 in a run state with one access. -/
def withAcc (x : RunState) (hold : HoldSet) (m : Option RcMsg) (e : AccEntry) (ex : Option Exchange) : State :=
  (inRun x hold m).modAcc 0 fun a => { a with queue := [e], exchange := ex }

theorem test_svc_grant :
    ((after (.svcGrant 0 grantCheck) (withAcc .svcPending .empty (some .svcReq) read0 none)).rc 0).run = .service := by decide +kernel
theorem test_acc_reply :
    replies (after (.accReply 0 3 0 9 (replyCheck 3 0 9))
      (withAcc .halted (heldBy 1) none { read0 with inFlight := true } (some { number := 3, phase := .read, timer := 2 }))) 2 =
        [(.ok, [0, 0, 0, 9])] := by decide +kernel
theorem test_ref_fires :
    ((after (.ref 0 0 5 none (fetchCheck 5)) (withRec rec0)).rc 0).run = .stopping ∧
      ((after (.ref 0 0 5 none (fetchCheck 5)) (withRec rec0)).notice 1).entries.length = 1 := by decide +kernel
theorem test_stop_timer :
    ((after (.stopTimerExpiry 0) (inRun .stopping (heldBy 1) (some .stop))).rc 0).run = .unresponsive := by decide +kernel
theorem test_run_timer :
    ((after (.runTimerExpiry 0) (inRun .releasing .empty (some .run))).rc 0).run = .unresponsive := by decide +kernel
theorem test_grant_timer :
    replies (after (.grantTimerExpiry 0) (withAcc .svcPending .empty (some .svcReq) read0 none)) 2 = [(.timeout, [])] := by
  decide +kernel
theorem test_exchange_timer :
    ((after (.exchangeTimerExpiry 0)
      (withAcc .halted (heldBy 1) none { read0 with inFlight := true } (some { number := 3, phase := .read, timer := 2 }))).rc 0).run =
        .unresponsive := by decide +kernel

/-- T0 in RESETTING, held by S1. -/
def resetting (p : ResetPhase) (m : Option RcMsg) : State :=
  (inRun .resetting (heldBy 1) m).modRc 0 fun r =>
    { r with resetRec := some { session := 0, tag := 7, discard := false, phase := p }, resetTimer := if p = .holding then some 10 else none }

theorem test_reset_hold :
    ((after (.resetHoldExpiry 0) (resetting .holding none)).port 0).sendList = [.rstOff true] := by decide +kernel
theorem test_slot_begin :
    ((after (.slotBegin 0) (hubT fun y => { y with port := { y.port with sendList := [.stop, .run] } })).port 0).slot =
      [0x01, crc8 [0x01]] := by decide +kernel

/-! ### The queue -/

theorem witness_StepRunsFront : step { hub with pending := [.ping 0 7] } = exec (.ping 0 7) hub := rfl
theorem test_step_idle : step hub = .next hub := rfl

/-! ### Witnesses: concrete states and operands that meet the hypotheses of each obligation, clause by clause -/

/-- A request can come from S1 with tag 7, and the window admits a deferred one. -/
def ready (s : State) (l : Index) : Bool := s.requestOpen l 7 && s.windowOpen l

/-- A window of S1 that is full. -/
def fullWindow (s : State) : State := s.modOpen 1 fun o => { o with tags := [1, 2, 3, 4] }

/-- L0 with a PING routed by S0, and with one routed by a session that has ended. -/
def routedPing (n : Index) (rx : RxState) : State :=
  hub.modLink n fun u => { u with rx, routed := some { tag := 7, request := .ping, cond := none, inSession := true } }

theorem witness_RoutedRequestTaken :
    hub.pending = [] ∧ (∀ m, (hub.link m).routed = none) ∧
    (routedPing 1 .idle).pending = [] ∧ ((routedPing 1 .idle).link 1).routed.isSome ∧
      (∀ m, m < 1 → ((routedPing 1 .idle).link m).routed = none) ∧ (routedPing 1 .idle).isOpen 1 ∧
    ((routedPing 3 .idle).link 3).routed.isSome ∧ ¬ (routedPing 3 .idle).isOpen 3 ∧
    ((routedPing 1 (.receiving [3, 7, 3, 0])).link 1).rx = .receiving [3, 7, 3, 0] ∧ ([7, 3, 0] : List Byte).length = (3 : Byte).toNat := by
  decide +kernel

theorem witness_HaltActsByRunState :
    ∀ x ∈ [RunState.running, .stopping, .halted, .releasing, .stepping, .svcPending, .service, .resetting, .detached, .unresponsive],
      ready (inRun x .empty none) 1 ∧ ¬ (inRun x .empty none).isObserver 1 ∧ ¬ ((inRun x .empty none).rc 0).lockedAgainst 1 := by
  decide +kernel

theorem witness_ResumeActsByRunState :
    ∀ x ∈ [RunState.running, .stopping, .halted, .releasing, .stepping, .svcPending, .service, .resetting, .detached, .unresponsive],
      ready (inRun x (heldBy 1) none) 1 ∧ ¬ (inRun x (heldBy 1) none).isObserver 1 ∧ ((inRun x (heldBy 1) none).rc 0).hold.has 1 := by
  decide +kernel

theorem witness_StatusReportsAndChangesNothing : hub.requestOpen 2 7 ∧ 3 < (4 : Byte).toNat := by decide +kernel

theorem witness_HaltedReportEntersHalted :
    (Instr.haltedReport 0 1 5 (haltedCheck 1 5)).wellFormed ∧
    ∀ x ∈ [RunState.running, .stopping, .releasing, .svcPending, .service, .unresponsive],
      ((inRun x .empty none).port 0).link = .active ∧ ((inRun x .empty none).rc 0).run = x := by decide +kernel

theorem witness_RunningReportEntersRunningOrStops :
    (Instr.runningReport 0 runningCheck).wellFormed ∧
    ∀ x ∈ [RunState.halted, .releasing, .unresponsive],
      ((inRun x (heldBy 1) none).port 0).link = .active ∧ ((inRun x (heldBy 1) none).rc 0).run = x := by decide +kernel

theorem witness_ReportsThatEnterNothing :
    let a := inRun .halted (heldBy 1) none
    (Instr.haltedReport 0 3 5 (haltedCheck 3 5)).wellFormed ∧ (a.port 0).link = .active ∧ (a.rc 0).run = .halted ∧
      (a.port 0).outstanding = none ∧ (a.port 0).watchOwed = false ∧
    (Instr.runningReport 0 runningCheck).wellFormed ∧
    ∀ x ∈ [(RunState.running, none), (.stopping, some RcMsg.stop), (.svcPending, some .svcReq), (.service, none)],
      let b := inRun x.1 .empty x.2
      (b.port 0).link = .active ∧ (b.rc 0).run = x.1 ∧ (b.port 0).watchOwed = false ∧
        ∀ m ∈ b.outstandingMsg 0, m.answeredByRunning = false := by decide +kernel

/-- T0 being attached. -/
def attaching (hold : HoldSet) : State := (inRun .detached hold (some .probe)).modPort 0 fun p => { p with link := .probing }

theorem witness_ProbeAnswerAgreesWithHoldSet :
    (∀ h ∈ [HoldSet.empty, heldBy 1],
      ((attaching h).port 0).link = .probing ∧ (attaching h).outstandingMsg 0 = some .probe ∧ ((attaching h).rc 0).run = .detached) ∧
    (Instr.haltedReport 0 0 5 (haltedCheck 0 5)).wellFormed ∧ (Instr.runningReport 0 runningCheck).wellFormed := by decide +kernel

theorem witness_StopAndRunTimeoutsMakeUnresponsive :
    (inRun .stopping .empty (some .stop)).outstandingMsg 0 = some .stop ∧
    (inRun .stepping .empty (some .step)).outstandingMsg 0 = some .step ∧
    (inRun .stopping .empty (some .svcExitHold)).outstandingMsg 0 = some .svcExitHold ∧
    (inRun .releasing .empty (some .run)).outstandingMsg 0 = some .run ∧
    (attaching .empty).outstandingMsg 0 = some .probe ∧
    (resetting (.released true) (some (.rstOff true))).outstandingMsg 0 = some (.rstOff true) := by decide +kernel

/-- T0 disabled, with PRESENT at a level. -/
def disabledT0 (present : Bool) : State :=
  hubT fun _ => { Target.reset present with
    port := { Port.reset present with link := .disabled }, cfg := { PortConfig.reset with portEnable := false } }

theorem witness_PresentAttachesAndDetaches :
    ((disabledT0 false).port 0).present = false ∧ ((disabledT0 false).port 0).link = .disabled ∧
    (absentT0.port 0).present = false ∧ (absentT0.port 0).link = .absent ∧
    ((disabledT0 true).port 0).present = true ∧ ((disabledT0 true).port 0).link = .disabled ∧
    ((attaching .empty).port 0).present = true ∧ ((attaching .empty).port 0).link = .probing ∧
    (hub.port 0).present = true ∧ (hub.port 0).link = .active := by decide +kernel

theorem witness_StepStartsSequenceOrIsRefused :
    let a := inRun .halted ((heldBy 1).addSelf) none
    (ready a 1 ∧ (1 : Byte) ≠ 0 ∧ ¬ a.isObserver 1 ∧ ¬ (a.rc 0).lockedAgainst 1 ∧ (a.rc 0).run = .halted ∧ (a.rc 0).hold.has 1 ∧
      ¬ (a.rc 0).hold.hasOther 1) ∧
    -- each refusal: count 0, OBSERVER, another's lock, not HALTED, not held, held by another
    ready hub 1 ∧ (ready hub 2 ∧ hub.role? 2 = some .observer) ∧
    (hub.modRc 0 fun r => { r with lock := some 0 }).requestOpen 1 7 ∧ (hub.rc 0).run ≠ .halted ∧
    (let b := inRun .halted .empty none; ready b 1 ∧ (b.rc 0).hold.members.get 1 = false) ∧
    (let b := inRun .halted ((heldBy 1).add 0) none; ready b 1 ∧ (b.rc 0).hold.members.get 0 = true) := by decide +kernel

/-- T0 STEPPING for S1, one step done of `k`. -/
def stepping (k : Nat) (out : Bool) : State :=
  (inRun .stepping (heldBy 1) (if out then some .step else none)).modRc 0 fun r =>
    { r with stepSeq := some { State.newSeq 1 9 (byteOf k) with done := 1, outstanding := out } }

theorem witness_ReportsWithinSequence :
    (Instr.haltedReport 0 2 5 (haltedCheck 2 5)).wellFormed ∧ selfFlag 2 = false ∧ stepFlag 2 = true ∧
    (let a := stepping 3 true
     (a.port 0).link = .active ∧ (a.port 0).watchOwed = false ∧ a.outstandingMsg 0 = some .step ∧ (a.rc 0).run = .stepping ∧
      (a.rc 0).stepSeq.any (fun q => q.outstanding && decide (q.done + 1 < q.requested) && !q.interrupted && !q.aborted && q.brk.isNone) ∧
      (a.rc 0).hold.isOnly 1 ∧ (a.rc 0).lock = none) ∧
    (let a := stepping 3 false
     (a.port 0).link = .active ∧ a.outstandingMsg 0 = none ∧ (a.rc 0).stepSeq.any (fun q => !q.outstanding)) ∧
    (Instr.runningReport 0 runningCheck).wellFormed := by decide +kernel

theorem witness_StepReportEndsSequence :
    let a := stepping 2 true
    (Instr.haltedReport 0 2 5 (haltedCheck 2 5)).wellFormed ∧ (a.port 0).link = .active ∧ a.outstandingMsg 0 = some .step ∧
      (a.rc 0).run = .stepping ∧ (a.rc 0).stepSeq.any (fun q => q.outstanding && !decide (q.done + 1 < q.requested)) := by decide +kernel

theorem witness_SetbrkCreatesRecord :
    hub.requestOpen 1 7 ∧ modeDataFlag 0x20 = false ∧ modeKind? 0x20 = some .fetch ∧ modeAction? 0x20 = some .halt ∧
      modeReserved 0x20 = false ∧ ¬ hub.isObserver 1 ∧ hub.freeHandle? = some 0 ∧
      bindTo? (hub.bank 0) { kind := .fetch, address := 5 &&& 0xFFFFFF, mask := 0xFFFFFF, cond := none } = some (0, false) ∧
    -- a data condition takes C2, for a LOAD breakpoint
    (let a := hub.modLink 1 fun u => { u with pendingData := some { value := 3, mask := 0xFF } }
     a.requestOpen 1 7 ∧ modeDataFlag 0x41 ∧ (a.link 1).pendingData.isSome ∧ modeKind? 0x41 = some .load ∧
      bindTo? (a.bank 0) { kind := .load, address := 5, mask := 0xFFFFFF, cond := some { value := 3, mask := 0xFF } } = some (2, false)) := by
  decide +kernel

/-- Every handle in use. -/
def fullTable : State := { hub with records := handles.map fun h => { rec0 with handle := h } }

/-- T0's four comparators bound to other specifications. -/
def fullBank : State := hub.modBank 0 fun _ => .all { spec := some { rec0.spec with address := 9 }, subs := [0] }

theorem witness_SetbrkRefusedOrPending :
    hub.requestOpen 1 7 ∧ modeKind? 5 = none ∧ modeKind? 7 = none ∧ modeAction? 0x18 = none ∧ modeReserved 0x80 ∧
    (hub.requestOpen 2 7 ∧ hub.isObserver 2 ∧ modeAction? 0 ≠ some .notify) ∧
    (fullTable.requestOpen 1 7 ∧ ∀ g : Handle, (fullTable.record? g).isSome) ∧
    (fullBank.requestOpen 1 7 ∧ bindTo? (fullBank.bank 0) rec0.spec = none) ∧
    (modeDataFlag 0x41 ∧ (hub.link 1).pendingData = none) := by decide +kernel

theorem witness_DeletionFreesComparator : ((withRec rec0).record? 0).isSome := by decide +kernel

theorem witness_ClrbrkDeletesRecord :
    (withRec rec0).requestOpen 1 7 ∧ toHandle? 32 = none ∧ toHandle? 31 = some 31 ∧ (withRec rec0).record? 31 = none ∧
      toHandle? 0 = some 0 ∧ (withRec rec0).record? 0 = some rec0 ∧
    (rec0.owner ≠ 2 ∧ (withRec rec0).requestOpen 2 7 ∧ (withRec rec0).role? 2 ≠ some .supervisor) ∧
    ((withRec rec0).requestOpen 0 7 ∧ (withRec rec0).role? 0 = some .supervisor) := by decide +kernel

theorem witness_QbrkReturnsPart :
    (withRec rec0).requestOpen 1 7 ∧ toHandle? 32 = none ∧ toHandle? 31 = some 31 ∧ 3 < (4 : Byte).toNat ∧ (3 : Byte).toNat ≤ 3 ∧
      (withRec rec0).record? 31 = none ∧ (withRec rec0).record? 0 = some rec0 := by decide +kernel

theorem witness_ComparatorMatch : (((withRec rec0).bank 0).get 0).spec = some rec0.spec := by decide +kernel

theorem witness_ReferenceTakesMatchingRecords :
    (Instr.ref 0 0 5 none (fetchCheck 5)).wellFormed ∧ ((withRec rec0).port 0).link = .active ∧ RefKind.ofByte? 0 = some .fetch ∧
      State.refsMatched ((withRec rec0).rc 0) = true ∧
      State.refsMatched ((inRun .halted .empty none).rc 0) = false ∧ ((inRun .halted .empty none).port 0).link = .active ∧
      hub.record? 0 = none := by decide +kernel

theorem witness_TakenRecordCountsOrFires :
    (withRec rec0).record? 0 = some rec0 ∧ rec0.remaining = 0 ∧ State.refsMatched ((withRec rec0).rc rec0.target) ∧
      (withRec rec0).isOpen rec0.owner ∧
    ((withRec { rec0 with passes := 1, remaining := 1 }).record? 0).any (fun x => x.remaining == 1) := by decide +kernel

/-- T0 with `k` entries in its access queue. -/
def queued (k : Nat) : State := (inRun .halted (heldBy 1) none).modAcc 0 fun a => { a with queue := List.replicate k read0 }

theorem witness_AccessJoinsQueueOrIsRefused :
    (ready (queued 7) 1 ∧ Space.ofByte? 0 = some .core ∧ (127 : Addr).toNat ≤ 127 ∧ ((queued 7).acc 0).queue.length < 8 ∧
      ¬ (queued 7).isObserver 1 ∧ ¬ ((queued 7).rc 0).lockedAgainst 1) ∧
    (ready (queued 8) 1 ∧ 8 ≤ ((queued 8).acc 0).queue.length) ∧
    (1 < (2 : Byte).toNat ∧ 127 < (128 : Addr).toNat) ∧ (ready hub 2 ∧ hub.isObserver 2) ∧
    (let a := hub.modRc 0 fun r => { r with lock := some 0 }; ready a 1 ∧ (a.rc 0).lockedAgainst 1) := by decide +kernel

/-- S1's WRITE. -/
def write0 : AccEntry := { read0 with session := 1, op := .write 9 }

theorem witness_ExaminationTreatsHead :
    ((withAcc .halted .empty none { read0 with inFlight := true } none).acc 0).inFlight ∧
    ((hub.acc 0).queue = [] ∧ (hub.rc 0).run ≠ .service) ∧
    (∀ x ∈ [RunState.stopping, .releasing, .stepping, .svcPending, .resetting],
      let a := withAcc x .empty none read0 none
      (a.acc 0).queue = [read0] ∧ ¬ read0.inFlight ∧ (a.rc 0).run = x ∧ (a.rc 0).run ≠ .service) ∧
    State.headFails ((withAcc .halted .empty none write0 none).rc 0) false write0 = some .notHeld ∧
    State.headFails ((withAcc .running .empty none read0 none).rc 0) false read0 = some .notHalted ∧
    State.headFails ((withAcc .detached .empty none read0 none).rc 0) false read0 = some .detached ∧
    State.headFails ((withAcc .unresponsive .empty none read0 none).rc 0) false read0 = some .unresponsive ∧
    State.headFails ((withAcc .halted (heldBy 1) none write0 none).rc 0) false write0 = none ∧
    State.headFails ((withAcc .running .empty none read0 none).rc 0) true read0 = none := by decide +kernel

theorem witness_ServiceExamination :
    (let a := withAcc .service (heldBy 1) none read0 none
     (a.rc 0).run = .service ∧ ¬ (a.acc 0).inFlight ∧ ¬ (a.rc 0).hold.isEmpty) ∧
    (let a := (withAcc .service .empty none read0 none).modAcc 0 fun x => { x with batch := 4 }
     (a.rc 0).run = .service ∧ ¬ (a.acc 0).inFlight ∧ (a.rc 0).hold.isEmpty ∧ (a.acc 0).batch = 4) ∧
    (let a := (withAcc .service .empty none read0 none).modAcc 0 fun x => { x with batch := 3 }
     (a.rc 0).hold.isEmpty ∧ (a.acc 0).batch ≠ 4 ∧ (a.acc 0).queue = [read0] ∧ ¬ read0.isWrite) := by decide +kernel

theorem witness_GrantEntersServiceOrIsLate :
    (Instr.svcGrant 0 grantCheck).wellFormed ∧
    (let a := inRun .svcPending .empty (some .svcReq)
     (a.port 0).link = .active ∧ (a.rc 0).run = .svcPending ∧ a.outstandingMsg 0 = some .svcReq) ∧
    (∀ x ∈ [RunState.running, .releasing, .stopping, .halted, .service, .stepping, .unresponsive, .resetting],
      let a := inRun x .empty none
      (a.port 0).link = .active ∧ (a.rc 0).run = x ∧ x ≠ .svcPending) := by decide +kernel

/-- T0 with an access in flight, in a phase. -/
def flying (x : RunState) (e : AccEntry) (ph : Phase) : State :=
  withAcc x (heldBy 1) none { e with inFlight := true } (some { number := 3, phase := ph, timer := 2 })

theorem witness_ReplyEndsExchangeByPhase :
    (Instr.accReply 0 3 0 9 (replyCheck 3 0 9)).wellFormed ∧ (Instr.accReply 0 3 1 9 (replyCheck 3 1 9)).wellFormed ∧
    (∀ z ∈ [(read0, Phase.read), (write0, .write), (write0, .readBack)],
      let a := flying .halted z.1 z.2
      (a.port 0).link = .active ∧ (a.acc 0).exchange = some { number := 3, phase := z.2, timer := 2 } ∧
        (a.acc 0).queue = [{ z.1 with inFlight := true }] ∧ (z.2 = .read ↔ ¬ z.1.isWrite) ∧ (a.rc 0).run = .halted) ∧
    -- a WRITE answered ok in SERVICE, with the first STEP held back, after it was sent, and in RELEASING
    ((flying .service write0 .write).rc 0).run = .service ∧
    (let a := stepping 3 false; (a.rc 0).run = .stepping ∧ ∃ q ∈ (a.rc 0).stepSeq, q.outstanding = false) ∧
    (let a := stepping 3 true; (a.rc 0).run = .stepping ∧ ¬ ∃ q ∈ (a.rc 0).stepSeq, q.outstanding = false) ∧
    ((flying .releasing write0 .write).rc 0).run = .releasing := by decide +kernel

theorem witness_AccessEndReleasesOrSteps :
    (let a := (inRun .halted .empty none).modRc 0 fun r => { r with relDefer := true }
     ¬ (a.acc 0).inFlight ∧ (a.rc 0).relDefer ∧ (a.rc 0).hold.isEmpty) ∧
    (let a := (inRun .halted (heldBy 1) none).modRc 0 fun r => { r with relDefer := true }
     ¬ (a.acc 0).inFlight ∧ (a.rc 0).relDefer ∧ ¬ (a.rc 0).hold.isEmpty) ∧
    (let a := stepping 3 false
     ¬ (a.acc 0).inFlight ∧ ¬ (a.rc 0).relDefer ∧ (a.rc 0).run = .stepping ∧ (a.rc 0).stepSeq.any (fun q => !q.outstanding && !q.interrupted) ∧
       (a.rc 0).hold.isOnly 1) ∧
    (let a := (stepping 3 false).modRc 0 fun r => { r with hold := .empty }; ¬ (a.rc 0).hold.isOnly 1) ∧
    (¬ (hub.rc 0).relDefer ∧ (hub.rc 0).run ≠ .stepping ∧ ¬ (hub.acc 0).inFlight) ∧
    (let a := stepping 3 true; ¬ (a.rc 0).relDefer ∧ ¬ (a.acc 0).inFlight ∧ ∀ q ∈ (a.rc 0).stepSeq, q.outstanding) := by decide +kernel

theorem witness_AccessTimeouts :
    (let a := flying .halted read0 .read
     (a.acc 0).exchange.isSome ∧ (a.acc 0).queue = [{ read0 with inFlight := true }] ∧ (a.rc 0).run = .halted) ∧
    (let a := flying .releasing read0 .read
     (a.acc 0).exchange.isSome ∧ (a.acc 0).queue = [{ read0 with inFlight := true }] ∧ (a.rc 0).run = .releasing) ∧
    (let a := withAcc .svcPending .empty (some .svcReq) read0 none
     (a.rc 0).run = .svcPending ∧ a.outstandingMsg 0 = some .svcReq) := by decide +kernel

/-- T0 locked by Sn. -/
def lockedBy (n : Index) : State := hub.modRc 0 fun r => { r with lock := some n }

theorem witness_LockAndUnlock :
    hub.requestOpen 1 7 ∧ 3 < (4 : Byte).toNat ∧ (hub.requestOpen 2 7 ∧ hub.isObserver 2) ∧
    ((lockedBy 1).requestOpen 1 7 ∧ ¬ (lockedBy 1).isObserver 1 ∧ ((lockedBy 1).rc 0).lock = some 1) ∧
    ((lockedBy 0).requestOpen 1 7 ∧ ((lockedBy 0).rc 0).lock = some 0 ∧ (0 : Index) ≠ 1) ∧ (hub.rc 0).lock = none := by decide +kernel

theorem witness_FrelRevokesOthers : (lockedBy 1).requestOpen 0 7 ∧ (lockedBy 1).isSupervisor 0 := by decide +kernel

theorem witness_RunRequestsRefused :
    (ready hub 2 ∧ hub.isObserver 2 ∧ ¬ hub.isSupervisor 2) ∧ (6 : Byte).toNat ≤ 6 ∧
    ((lockedBy 0).requestOpen 1 7 ∧ ¬ (lockedBy 0).isObserver 1 ∧ ((lockedBy 0).rc 0).lockedAgainst 1) ∧
    (¬ (hub.rc 0).hold.has 1 ∧ ¬ (hub.rc 0).hold.self) := by decide +kernel

/-- L3 marked supervisor-capable. -/
def capable3 (s : State) : State := s.modSession 3 fun x => { x with capable := true }
/-- The same with no supervisor open. -/
def noSupervisor : State := capable3 (hub.modSession 0 fun x => { x with current := none })

theorem witness_OpenByFirstCheck :
    (hub.requestReady 1 ∧ (hub.session 1).current.any (fun o => !o.tags.contains 7)) ∧
    (hub.requestReady 3 ∧ (hub.session 3).current = none) ∧
    (2 < (3 : Byte).toNat ∧ 60 < (61 : Byte).toNat ∧ ¬ 60 < (60 : Byte).toNat ∧ (1 : Byte) ≠ 0) ∧ (hub.session 3).capable = false ∧
    ((capable3 hub).requestReady 3 ∧ ((capable3 hub).session 3).capable = true ∧ (capable3 hub).role? 0 = some .supervisor ∧
      ∀ m : Index, m < 0 → (capable3 hub).role? m ≠ some .supervisor) ∧
    (noSupervisor.requestReady 3 ∧ (noSupervisor.session 3).current = none ∧ (noSupervisor.session 3).capable = true ∧
      ∀ n, noSupervisor.role? n ≠ some .supervisor) := by decide +kernel

theorem witness_PingReportsAndRenews :
    (hub.requestReady 3 ∧ (hub.session 3).current = none) ∧
    ((fullWindow hub).requestReady 1 ∧ ((fullWindow hub).session 1).current.any (fun o => o.tags.contains 4 && !o.tags.contains 7)) := by
  decide +kernel

theorem witness_CloseAnswersAndEnds : hub.requestOpen 1 7 := by decide +kernel

/-- T0 HALTED, held and locked by S1 alone, whose record is the only one of the bank. -/
def claimed : State := ((inRun .halted (heldBy 1) none).bindRecord rec0).modRc 0 fun r => { r with lock := some 1 }

/-- S1's end releases T0, frees its lock and its comparator, and turns the watch off. -/
theorem test_end_releases_unlocks_unwatches :
    ((after (.leaseExpiry 1) claimed).rc 0).run = .releasing ∧ ((after (.leaseExpiry 1) claimed).rc 0).lock = none ∧
      ((after (.leaseExpiry 1) claimed).port 0).sendList = [.run, .watch false] ∧ (after (.leaseExpiry 1) claimed).records = [] := by
  decide +kernel

/-- T0 RUNNING with the WAITING READs of S1 and S2. -/
def queuedTwo : State := hub.modAcc 0 fun a => { a with queue := [{ read0 with session := 1 }, read0] }

/-- S1's end takes its READ away, and S2's, the new head, is examined. -/
theorem test_end_examines_new_head :
    ((after (.leaseExpiry 1) queuedTwo).acc 0).queue = [] ∧ replies (after (.leaseExpiry 1) queuedTwo) 2 = [(.notHalted, [])] := by
  decide +kernel

theorem witness_LeaseAndBreakEndSession :
    (((hub.session 1).current.bind fun o => o.leaseTimer).isSome) ∧ ((hub.session 3).current.bind fun o => o.leaseTimer) = none ∧
      hub.isOpen 1 ∧ ¬ hub.isOpen 3 := by decide +kernel

/-- S1's queue with `k` entries, the last of them a LINK_FAULT not yet sent where `fault`. -/
def entries (k : Nat) (last : NoticeBody) : State :=
  hub.modNotice 1 fun _ =>
    { entries := (List.range k).map (fun i => { seq := byteOf i, body := if i + 1 = k then last else .revokedBreak 3 0, sent := false, keepsCount := false })
      nextSeq := byteOf k }

theorem witness_NoticeTakenByFirstLine :
    ¬ hub.isOpen 3 ∧
    ((entries 16 .overrun).isOpen 1 ∧ ((entries 16 .overrun).notice 1).entries.any (fun x => x.body == .overrun)) ∧
    ((entries 15 (.linkFault 255)).isOpen 1 ∧ ¬ ((entries 15 (.linkFault 255)).notice 1).entries.any (fun x => x.body == .overrun) ∧
      (NoticeBody.linkFault 1).isFault ∧ ((entries 15 (.linkFault 255)).notice 1).entries.getLast?.any (fun e => e.takesFaults)) ∧
    ((entries 14 (.revokedBreak 3 0)).isOpen 1 ∧ ((entries 14 (.revokedBreak 3 0)).notice 1).entries.length < 15) ∧
    ((entries 15 (.revokedBreak 3 0)).isOpen 1 ∧ 15 ≤ ((entries 15 (.revokedBreak 3 0)).notice 1).entries.length ∧
      ¬ ((entries 15 (.revokedBreak 3 0)).notice 1).entries.any (fun x => x.takesFaults)) := by decide +kernel

theorem witness_AckAndReplay :
    withNotices.requestOpen 1 7 ∧ (∀ x ∈ (withNotices.notice 1).entries, x.seq ≠ 6) ∧
    (withNotices.notice 1).entries = [] ++ { seq := 4, body := .linkFault 1, sent := true, keepsCount := false } :: [{ seq := 5, body := .revokedBreak 3 0, sent := true, keepsCount := false }] := by
  decide +kernel

theorem witness_WatchReplacesSet : hub.requestOpen 1 7 ∧ 16 ≤ (16 : Byte).toNat ∧ ¬ 16 ≤ (15 : Byte).toNat := by decide +kernel

theorem witness_FrameArrivesWhole : (hub.link 1).rx = .idle ∧ (hub.link 1).routed = none := by decide +kernel

/-- L0's receiver in a state. -/
def rxAt (x : RxState) : State := hubL fun u => { u with rx := x }

theorem witness_ReceiverTakesByte :
    ((rxAt .idle).link 0).rx = .idle ∧ ((rxAt (.receiving [])).link 0).rx = .receiving [] ∧ 3 ≤ (3 : Byte).toNat ∧ (14 : Byte).toNat ≤ 14 ∧
      ((rxAt (.receiving [3, 7, 3])).link 0).rx = .receiving [3, 7, 3] ∧ ([7, 3] : List Byte).length < (3 : Byte).toNat ∧
      ((rxAt .hunt).link 0).rx = .hunt := by decide +kernel

theorem witness_DamagedFrameDiscarded :
    (∀ k ∈ [0, 1, 2], ((hubL fun u => { u with badFrames := k }).link 0).badFrames ≤ 2) ∧
    ((rxAt (.receiving [])).link 0).rx = .receiving [] ∧ (2 : Byte).toNat < 3 ∧ 14 < (15 : Byte).toNat ∧
    (((rxAt (.receiving [3, 7, 3, 0])).link 0).rx = .receiving [3, 7, 3, 0] ∧ ([7, 3, 0] : List Byte).length = (3 : Byte).toNat ∧
      crc8 [3, 7, 3, 0] ≠ 0 ∧ ((rxAt (.receiving [3, 7, 3, 0])).link 0).routed = none) ∧
    ((hubL fun u => { u with rx := .receiving [], gapTimer := some 4 }).link 0).gapTimer.isSome ∧ (hub.link 0).gapTimer = none := by
  decide +kernel

theorem witness_GenericChecksInOrder :
    let a := rxAt (.receiving [3, 7, 3, 0])
    ((a.link 0).rx = .receiving (3 :: 7 :: 3 :: 0 :: []) ∧ (3 : Byte).toNat = ([] : List Byte).length + 3 ∧ (a.link 0).routed = none) ∧
    ((0x81 : Byte) ∉ Request.kinds ∧ (0x03 : Byte) ∈ Request.kinds) ∧ (¬ hub.isOpen 3 ∧ (0x03 : Byte) ≠ 0x01) ∧
    ((4 : Byte) ∈ (fullWindow hub).tags 1 ∧ (7 : Byte) ∉ (fullWindow hub).tags 1) ∧
    ((0x12 : Byte) ∈ Request.deferredKinds ∧ ¬ (fullWindow hub).windowOpen 1) ∧
    (Request.parse 0x03 0 [1] = none ∧ Request.parse 0x20 0 (2 :: List.replicate 8 0) = none ∧ Request.parse 0x03 0 [] = some .ping) := by
  decide +kernel

theorem witness_LinkAndWindowRefusals :
    ready hub 1 ∧ 3 < (4 : Byte).toNat ∧ ((fullWindow hub).requestOpen 1 7 ∧ ¬ (fullWindow hub).windowOpen 1) ∧
    (let a := fullWindow (inRun .running .empty none)
     a.requestOpen 1 7 ∧ ¬ a.windowOpen 1 ∧ ¬ a.isObserver 1 ∧ ¬ (a.rc 0).lockedAgainst 1 ∧ State.haltAtOnce (a.rc 0).run = false) ∧
    (let a := fullWindow (inRun .halted (heldBy 1) none)
     a.requestOpen 1 7 ∧ ¬ a.windowOpen 1 ∧ (a.rc 0).hold.has 1 ∧ State.resumeLater 1 (a.rc 0)) := by decide +kernel

/-- S1 with a full window or not, and a HALT or RESUME with one operand byte whose check byte is still to come. -/
def operandFrame (k h : Byte) (full : Bool) : State :=
  (if full then fullWindow hub else hub).modLink 1 fun u => { u with rx := .receiving [4, 7, k, h, 9] }

theorem witness_LinkAndWindowRefusals_operands :
    (∀ k ∈ [(0x10 : Byte), 0x11], ∀ h ∈ [(0 : Byte), 4], ∀ f ∈ [true, false],
      let a := operandFrame k h f
      (a.link 1).rx = .receiving (4 :: 7 :: k :: h :: [9]) ∧ (4 : Byte).toNat = ([9] : List Byte).length + 3 ∧ (a.link 1).routed = none ∧
        a.sched.delays.head? ≠ some true ∧ a.isOpen 1 ∧ ¬ (7 : Byte) ∈ a.tags 1 ∧ a.windowOpen 1 = !f) ∧
    (0 : Byte) = indexByte 0 ∧ indexByte 3 = 3 := by decide +kernel

/-- A HALT with an operand byte is refused BAD_OPERAND while the window admits it, and BUSY while it is closed. -/
theorem test_halt_with_operand :
    replies (after (.receivedByte 1 (crc8 [4, 7, 0x10, 0, 9])) (operandFrame 0x10 0 false)) 1 = [(.badOperand, [])] ∧
      replies (after (.receivedByte 1 (crc8 [4, 7, 0x10, 0, 9])) (operandFrame 0x10 0 true)) 1 = [(.busy, [])] := by decide +kernel

/-- L1 with `k` responses queued. -/
def responses (k : Nat) (tx : Tx) : State :=
  hub.modLink 1 fun u =>
    { u with tx, respQ := List.replicate k { owner := .session, resp := { tag := 1, status := .ok, kind := 3, payload := [] } } }

theorem witness_ArbiterAndPlaces :
    ((responses 0 .free).link 1).tx = .free ∧ ((responses 1 (.response [])).link 1).tx ≠ .free ∧
      (((responses 2 (.response [])).link 1).respQ.tail.head?).isSome ∧
      ((entries 2 .overrun).notice 1).entries.any (fun e => !e.sent) ∧
      ((responses 3 .free).link 1).respQ.length ≤ 3 ∧ 4 ≤ ((responses 4 .free).link 1).respQ.length ∧ hub.isOpen 1 ∧ ¬ hub.isOpen 3 := by
  decide +kernel

theorem witness_MessageVerified :
    (Instr.haltedReport 0 4 5 (haltedCheck 4 5)).wellFormed = false ∧ ((disabledT0 true).port 0).link = .disabled ∧
      (absentT0.port 0).link = .absent ∧ ((attaching .empty).port 0).link = .probing ∧ (hub.acc 0).exchange = none ∧
      ((flying .halted read0 .read).acc 0).exchange.all (fun x => x.number != 4) := by decide +kernel

/-- T0's send list. -/
def sending (ms : List PortMsg) : State := hubT fun y => { y with port := { y.port with sendList := ms } }

theorem witness_PortSends :
    ((disabledT0 true).cfg 0).portEnable = false ∧ ((sending []).cfg 0).portEnable = true ∧ ((sending []).port 0).sendList = [] ∧
      ((sending [.rstOn, .run]).port 0).sendList = .rstOn :: [.run] ∧ ((sending [.rstOff true]).port 0).sendList = .rstOff true :: [] ∧
      ((sending (List.replicate 8 (.attn 1))).port 0).sendList.length = 8 := by decide +kernel

theorem witness_WatchAfterReport :
    ((resetting (.released true) (some (.rstOff true))).port 0).link = .active ∧
      (resetting (.released true) (some (.rstOff true))).outstandingMsg 0 = some (.rstOff true) ∧
      (hubT fun y => { y with port := { y.port with watchOwed := true } }).port 0 = { (hub.port 0) with watchOwed := true } ∧
      hub.outstandingMsg 0 = none ∧ (hub.port 0).watchOwed = false ∧
      ((attaching .empty).port 0).link = .probing ∧ ((attaching .empty).port 0).watchOwed = false ∧
    -- a report in PROBING while a WATCH is owed, with the demand off and on
    (let a := (attaching .empty).modPort 0 fun p => { p with watchOwed := true, watchEnable := true }
     a.outstandingMsg 0 = some .probe ∧ (a.port 0).link = .probing ∧ (a.port 0).watchOwed ∧ a.demand 0 = false ∧
      (a.bindRecord rec0).demand 0 = true) := by decide +kernel

theorem witness_ConfigReadReturnsValue : hub.requestOpen 2 7 ∧ (6 : Byte).toNat ≤ 6 ∧ ¬ (7 : Byte).toNat ≤ 6 := by decide +kernel

theorem witness_ConfigSetActs :
    (hub.requestOpen 1 7 ∧ ¬ hub.isSupervisor 1) ∧ hub.requestOpen 0 7 ∧ hub.isSupervisor 0 ∧ 6 < (7 : Byte).toNat ∧ ((4 : Byte).toNat ≤ 4 ∧ (1 : Byte) ≠ 0) ∧
      (¬ (5 : Byte).toNat ≤ 4 ∧ (1 : Byte).toNat ≤ 1 ∧ ¬ (2 : Byte).toNat ≤ 1) ∧ (1 : Byte) = flagByte (hub.cfg 0).portEnable ∧
      ((hub.cfg 0).portEnable = true ∧ (hub.port 0).link = .active) ∧
      (absentT0.requestOpen 0 7 ∧ (absentT0.cfg 0).portEnable = true ∧ (absentT0.port 0).link ≠ .active) ∧
      ((disabledT0 true).requestOpen 0 7 ∧ (disabledT0 true).isSupervisor 0 ∧ ((disabledT0 true).cfg 0).portEnable = false) := by
  decide +kernel

theorem witness_TresetBeginsReset :
    (ready hub 0 ∧ hub.isSupervisor 0 ∧ (hub.rc 0).run ≠ .detached) ∧
      (ready absentT0 0 ∧ absentT0.isSupervisor 0 ∧ (absentT0.rc 0).run = .detached) := by decide +kernel

theorem witness_TargetResetEnds :
    (hub.rc 0).resetTimer = none ∧
    (let a := resetting .holding none
     (a.rc 0).resetTimer.isSome ∧ (a.rc 0).resetRec.any (fun q => decide (q.phase = .holding)) ∧ (a.port 0).link = .active ∧
      (a.rc 0).run = .resetting ∧ a.outstandingMsg 0 = none) ∧
    (∀ f ∈ [true, false],
      let a := resetting (.released f) (some (.rstOff f))
      (a.port 0).link = .active ∧ (a.rc 0).run = .resetting ∧ (a.rc 0).resetRec.any (fun q => decide (q.phase = .released f)) ∧
        a.outstandingMsg 0 = some (.rstOff f)) ∧
    (Instr.haltedReport 0 0 5 (haltedCheck 0 5)).wellFormed ∧ (Instr.runningReport 0 runningCheck).wellFormed := by decide +kernel

/-! ### Witnesses of the invariants, each with a step from it -/

theorem witness_StepKeepsNotices : withNotices.noticesKept ∧ step withNotices = .next withNotices := by
  refine ⟨fun n => ⟨?_, ?_, ?_, ?_⟩, rfl⟩
  · revert n; decide +kernel
  · revert n; decide +kernel
  · revert n; decide +kernel
  · intro h; exfalso; revert n; decide +kernel

theorem witness_StepKeepsTargetsCoherent : hub.targetsCoherent ∧ step hub = .next hub := by
  refine ⟨fun t => ?_, rfl⟩
  have h : hub.target t = hub.target 0 := by revert t; decide +kernel
  rw [h]
  refine ⟨by decide +kernel, by decide +kernel, by decide +kernel, by decide +kernel, by decide +kernel, by decide +kernel,
    by decide +kernel, rfl, by decide +kernel, by decide +kernel, by decide +kernel, by decide +kernel, by decide +kernel,
    by decide +kernel, by decide +kernel, by decide +kernel, by decide +kernel⟩

theorem witness_StepKeepsBanks : (withRec rec0).banksKept ∧ step (withRec rec0) = .next (withRec rec0) := by
  refine ⟨⟨by decide +kernel, by decide +kernel, ?_⟩, rfl⟩
  unfold Handle
  decide +kernel

theorem witness_StepKeepsWindow : hub.targetsCoherent ∧ hub.windowKept ∧ step hub = .next hub := by
  refine ⟨witness_StepKeepsTargetsCoherent.1, ?_, rfl⟩
  unfold State.windowKept
  decide +kernel

end Sys2Proof.Tests
end

section
/-! PROOF. A request on an idle link, from its frame to its owner, and what an immediate response does to its own link and to no other;
with these, STATUS (R24). -/

namespace Sys2Proof

/-! ### Targets a byte names -/

theorem toIndex?_eq_none {b : Byte} (h : 3 < b.toNat) : toIndex? b = none := by
  unfold toIndex?
  rw [dif_neg (by omega)]

namespace Request

/-- The kind, the target-or-handle byte and the operands of a request spell that request (Table 8-6). -/
theorem parse_fields (q : Request) : parse q.kind q.toh q.ops = some q := by
  cases q with
  | halt t e => cases e <;> rfl
  | resume t e => cases e <;> rfl
  | setbrk t mode a m p => simp [parse, kind, toh, ops, bytes24, bytes16, addr_bytes24, half_bytes16]
  | setbrkData v m => simp [parse, kind, ops, bytes32, word_bytes32]
  | read t space loc => simp [parse, kind, toh, ops, bytes24, addr_bytes24]
  | write t space loc d => simp [parse, kind, toh, ops, bytes24, bytes32, addr_bytes24, word_bytes32]
  | _ => rfl

/-- The length byte of a request's frame names the length of its body: at most 14 bytes, so nothing is cut off (R148). -/
theorem body_length (tag : Byte) (q : Request) :
    (byteOf (tag :: q.kind :: q.toh :: q.ops).length).toNat = (tag :: q.kind :: q.toh :: q.ops).length := by
  have h := q.ops_length_le
  simp only [byteOf, BitVec.toNat_ofNat, List.length_cons]
  omega

end Request

namespace Machine.State

variable (s : State) (l t : Index) (tag : Byte) (q : Request) (r : Response) (cond : Option DataCond)

/-! ### The arrival of a whole frame (R154, R157) -/

/-- The bytes of a request's frame, taken by a receiver in IDLE, are one good frame. -/
theorem requestArrives_of_idle (hrx : (s.link l).rx = .idle) (hrouted : (s.link l).routed = none) :
    s.requestArrives l tag q = (s.afterFrame l).checkRequest l tag q.kind q.toh q.ops := by
  have hlen := q.body_length tag
  have hops := q.ops_length_le
  set body := tag :: q.kind :: q.toh :: q.ops with hbody
  set size := byteOf body.length
  have hsize : 3 ≤ size.toNat ∧ size.toNat ≤ 14 := by
    simp only [hbody, List.length_cons] at hlen; omega
  have hidle : (s.modLink l fun u => { u with rx := .idle, gapTimer := none, badFrames := 0 }) =
      s.modLink l fun u => { u with badFrames := 0, gapTimer := none } := by
    refine modLink_congr s l ?_
    cases hu : s.link l
    simp_all
  have hframe : q.frame tag = requestStart :: size :: (body ++ [crc8 (size :: body)]) := rfl
  unfold requestArrives
  rw [hframe, List.foldl_cons, List.foldl_cons, receive_start_length s l hrx hsize.1 hsize.2, List.foldl_append,
    foldl_gather l size body [] _ (by simp) (by simp [hlen]), if_neg (by simp [hbody]), List.foldl_cons, List.foldl_nil,
    receive_check (n := size) (body := body) _ l (by simp) hlen.symm, endFrame_good _ l (by simp [hrouted]) rfl]
  simp only [hbody, goodFrame, modLink_modLink, afterFrame]
  rw [hidle]

/-! ### The state in which a request is checked and taken -/

/-- In `x` the link and the session of `l` are as in `s` for what they send and hear, and the other links and sessions are as in `s`. -/
structure SameVoice (s x : State) (l : Index) : Prop where
  respQ : (x.link l).respQ = (s.link l).respQ
  links : ∀ n, n ≠ l → x.link n = s.link n
  notices : x.notices = s.notices
  isOpen : x.isOpen l = s.isOpen l

theorem afterFrame_sameVoice : s.SameVoice (s.afterFrame l) l where
  respQ := by simp [afterFrame, restartLease]
  links n hn := modLink_link_of_ne s _ hn
  notices := rfl
  isOpen := isOpen_modOpen (s.modLink l _) l l _

theorem afterDelivery_sameVoice : s.SameVoice (s.afterDelivery l) l :=
  have h := s.afterFrame_sameVoice l
  ⟨h.respQ, h.links, h.notices, h.isOpen⟩

/-- A good frame takes no tag out of the window and adds none. -/
@[simp] theorem tags_afterFrame : (s.afterFrame l).tags l = s.tags l :=
  tags_modOpen_self (s.modLink l _) l _

@[simp] theorem afterFrame_targets : (s.afterFrame l).targets = s.targets := rfl

@[simp] theorem afterDelivery_targets : (s.afterDelivery l).targets = s.targets := rfl

/-! ### Ready receivers -/

theorem requestReady_iff : s.requestReady l = true ↔
    (s.link l).rx = .idle ∧ (s.link l).routed = none ∧ s.sched.delays.head? ≠ some true := by
  simp [requestReady, and_assoc]

theorem requestOpen_iff : s.requestOpen l tag = true ↔ s.requestReady l = true ∧ s.isOpen l = true ∧ tag ∉ s.tags l := by
  simp [requestOpen, and_assoc]

/-! ### The generic checks and the way to the owner (R158, R160) -/

/-- A request of an open session with a tag that is not outstanding is routed, where its kind is not deferred or the window is open. -/
theorem checkRequest_of_open (ho : s.isOpen l = true) (htag : tag ∉ s.tags l)
    (hw : q.kind ∈ Request.deferredKinds → s.windowOpen l = true) :
    s.checkRequest l tag q.kind q.toh q.ops = s.route l tag q := by
  have hwindow : (Request.deferredKinds.contains q.kind && !s.windowOpen l) = false := by
    by_cases hk : q.kind ∈ Request.deferredKinds
    · simp [hw hk]
    · simp [hk]
  unfold checkRequest
  rw [hwindow, Request.parse_fields]
  simp [q.kind_mem, ho, htag]

/-- Only a request of a per-target kind can name a target above 3 (Table 8-9). -/
theorem namesNoTarget_of_target {b : Byte} (hq : q.target? = some b) : namesNoTarget q = (toIndex? b).isNone := by
  simp [namesNoTarget, hq]

/-- A request for a target above 3 is refused (R160). -/
theorem handOver_of_noTarget {b : Byte} (hq : q.target? = some b) (hb : 3 < b.toNat) :
    s.handOver l tag q cond = s.respondPlain l tag q.kind .badOperand := by
  unfold handOver
  rw [namesNoTarget_of_target q hq, toIndex?_eq_none hb]
  rfl

/-- A request for a target up to 3 goes to its owner. -/
theorem handOver_of_target (hq : q.target? = some (indexByte t)) : s.handOver l tag q cond = s.deliver l tag q cond := by
  unfold handOver
  rw [namesNoTarget_of_target q hq, toIndex?_indexByte]
  rfl

/-- An owner of target `t` takes a request whose target byte names `t`. -/
theorem atTarget_indexByte (f : Index → State → State) : s.atTarget (indexByte t) f = f t s := by
  unfold atTarget
  rw [toIndex?_indexByte]

/-- A request routed and taken at once leaves no trace on its link. -/
theorem takeRouted_routed (hrouted : (s.link l).routed = none) :
    (s.modLink l fun u => { u with routed := some { tag, request := q, cond, inSession := s.isOpen l } }).takeRouted l =
      s.ownerTake l tag q cond := by
  have hback : (s.modLink l fun u => { u with routed := none }) = s := by
    have hu : s.modLink l (fun u => { u with routed := none }) = s.modLink l fun u => u := by
      refine modLink_congr s l ?_
      cases hl : s.link l
      simp_all
    rw [hu]
    simp [modLink]
  have hopen (f : LinkUnit → LinkUnit) : (s.modLink l f).isOpen l = s.isOpen l := isOpen_congr rfl l
  unfold takeRouted
  simp only [modLink_link_self, modLink_modLink, hopen, Bool.and_not_self, Bool.false_eq_true, if_false, hback]

/-- With no delay scheduled the owner takes a request at once, the schedule having been read for one delivery (log entry 3). -/
theorem deliver_of_ready (hrouted : (s.link l).routed = none) (hd : s.sched.delays.head? ≠ some true) :
    s.deliver l tag q cond = ({ s with sched := { s.sched with delays := s.sched.delays.tail } } : State).ownerTake l tag q cond := by
  set polled : State := { s with sched := { s.sched with delays := s.sched.delays.tail } } with hpolled
  rw [← takeRouted_routed polled l tag q cond hrouted]
  unfold deliver
  cases hs : s.sched.delays with
  | nil =>
    have hsame : polled = s := by
      obtain ⟨_, _, _, _, _, ⟨_, _⟩, _⟩ := s
      simp_all
    rw [hsame]
  | cons later rest =>
    have hnow : later = false := by simpa [hs] using hd
    simp only [hnow, hpolled, hs, List.tail_cons]
    rfl

/-- After the frame of a request that waits for nothing, its owner takes it in `afterDelivery`. -/
theorem deliver_afterFrame (h : s.requestReady l = true) :
    (s.afterFrame l).deliver l tag q cond = (s.afterDelivery l).ownerTake l tag q cond := by
  obtain ⟨-, hrouted, hd⟩ := (s.requestReady_iff l).1 h
  have hr : ((s.afterFrame l).link l).routed = none := by simpa [afterFrame, restartLease] using hrouted
  exact deliver_of_ready (s.afterFrame l) l tag q cond hr hd

/-- A request that passes the checks of R158 on a link that waits for nothing is routed in `afterFrame`. -/
theorem requestArrives_of_open (h : s.requestOpen l tag = true)
    (hw : q.kind ∈ Request.deferredKinds → (s.afterFrame l).windowOpen l = true) :
    s.requestArrives l tag q = (s.afterFrame l).route l tag q := by
  obtain ⟨hready, ho, htag⟩ := (s.requestOpen_iff l tag).1 h
  obtain ⟨hrx, hrouted, -⟩ := (s.requestReady_iff l).1 hready
  rw [requestArrives_of_idle s l tag q hrx hrouted]
  exact checkRequest_of_open (s.afterFrame l) l tag q ((s.afterFrame_sameVoice l).isOpen.trans ho) (by simpa using htag) hw

/-! ### Immediate responses (R163) -/

/-- An immediate response is placed where 5 places are free, and is otherwise heard by an open session as a link fault. -/
theorem respondNow_repliedAfter :
    s.repliedAfter (s.respondNow l r) l (if s.isOpen l then .session else .none) [] r [] := by
  unfold repliedAfter
  simp only [List.map_nil, List.append_nil, List.nil_append, Config.immediateNeeds, Config.respPlaces]
  by_cases hroom : (s.link l).respQ.length + 5 ≤ 8
  · obtain ⟨-, hresp, hnotice, -⟩ := s.place_spec l (if s.isOpen l then .session else .none) r
    rw [if_pos hroom, respondNow_placed s l (by omega)]
    exact ⟨by simpa using hresp l, hnotice l⟩
  · obtain ⟨-, hresp, hnotice, -⟩ := s.queueNotice_spec l (.linkFault 1)
    rw [if_neg hroom, respondNow_discarded s l (by omega)]
    refine ⟨hresp l, (hnotice l).trans ?_⟩
    by_cases ho : s.isOpen l = true <;> simp [ho]

/-- An immediate response to an open session, given in a state with the same voice as `s`: it alone is sent (R163). -/
theorem respondNow_of_sameVoice {s x : State} {l : Index} (r : Response) (h : s.SameVoice x l) (ho : s.isOpen l = true) :
    (x.respondNow l r).mute = x.mute ∧ s.othersSilent (x.respondNow l r) l ∧ s.replied (x.respondNow l r) l r [] := by
  obtain ⟨hmute, hsilent⟩ := x.respondNow_spec l r
  have hnotice : ∀ n, x.notice n = s.notice n := fun n => by simp only [notice, h.notices]
  refine ⟨hmute, fun n hn => ?_, ?_⟩
  · rw [(hsilent n hn).1, (hsilent n hn).2, h.links n hn, hnotice n]
    exact ⟨rfl, rfl⟩
  · have hreplied := x.respondNow_repliedAfter l r
    rw [h.isOpen, if_pos ho] at hreplied
    simpa only [replied, repliedAfter, heard, h.respQ, hnotice] using hreplied

/-! ### STATUS (R24) -/

/-- STATUS answers with what `s` holds, where the targets are those of `s`. -/
theorem takeStatus_of_targets {s x : State} (h : x.targets = s.targets) (l : Index) (tag : Byte) (t : Index) :
    x.takeStatus l tag t = x.respondNow l
      { tag, status := .ok, kind := 0x13
        payload := [(s.rc t).run.code, (s.rc t).hold.byte, ownerByte (s.rc t).lock] ++
          haltCauseBytes (s.rc t).haltCause ++ bytes24 (s.rc t).lastPc ++
          [byteOf (s.acc t).queue.length, byteOf (s.boundCount t)] } := by
  simp only [takeStatus, rc, acc, boundCount, bank, target, h]

/-- A STATUS that passes the checks of R158 is handed over: its kind is not a deferred one. -/
theorem requestArrives_status (b : Byte) (h : s.requestOpen l tag = true) :
    s.requestArrives l tag (.status b) = (s.afterFrame l).handOver l tag (.status b) none :=
  s.requestArrives_of_open l tag (.status b) h fun hk => absurd hk (show (0x13 : Byte) ∉ Request.deferredKinds by decide)

/-- STATUS for a target above 3 is refused at once (R160). -/
theorem status_of_noTarget {b : Byte} (h : s.requestOpen l tag = true) (hb : 3 < b.toNat) :
    s.requestArrives l tag (.status b) = (s.afterFrame l).respondNow l { tag, status := .badOperand, kind := 0x13, payload := [] } := by
  rw [requestArrives_status s l tag b h, handOver_of_noTarget (s.afterFrame l) l tag (.status b) none rfl hb]
  rfl

/-- STATUS for a target up to 3 is taken at once by its Run Control Unit. -/
theorem status_of_target (h : s.requestOpen l tag = true) :
    s.requestArrives l tag (.status (indexByte t)) = (s.afterDelivery l).takeStatus l tag t := by
  rw [requestArrives_status s l tag _ h, handOver_of_target (s.afterFrame l) l t tag _ none rfl,
    deliver_afterFrame s l tag _ none ((s.requestOpen_iff l tag).1 h).1]
  exact atTarget_indexByte (s.afterDelivery l) t fun i => takeStatus l tag i

/-- Settles O5: a STATUS frame ends in one immediate response, given right after the frame (target above 3) or the delivery. -/
theorem statusReportsAndChangesNothing : Obligations.StatusReportsAndChangesNothing := by
  unfold Obligations.StatusReportsAndChangesNothing
  intro s l t tag target h
  have ho : s.isOpen l = true := ((s.requestOpen_iff l tag).1 h).2.1
  refine ⟨fun hb => ⟨_, rfl, ?_⟩, ⟨_, rfl, ?_⟩⟩
  · rw [status_of_noTarget s l tag h hb]
    exact respondNow_of_sameVoice _ (s.afterFrame_sameVoice l) ho
  · rw [status_of_target s l t tag h, takeStatus_of_targets (s.afterDelivery_targets l) l tag t]
    exact respondNow_of_sameVoice _ (s.afterDelivery_sameVoice l) ho

end Machine.State

end Sys2Proof
end

section
/-! PROOF. Reference reports and the records they reach (chapter 3): when a comparator matches (R53), which records a report takes
(R52, R54), and what becomes of a record taken (R55, R56). -/

namespace Sys2Proof.Machine

/-! ### The three tests of a match (R53) -/

/-- The kind test: ANY covers every report, DATA covers LOAD and STORE, and the other kinds cover their own. -/
theorem BrkKind.covers_iff (k : BrkKind) (r : RefKind) : k.covers r = true ↔
    k = .any ∨ k = .fetch ∧ r = .fetch ∨ (k = .load ∨ k = .data) ∧ r = .load ∨ (k = .store ∨ k = .data) ∧ r = .store := by
  cases k <;> cases r <;> decide

/-- A specification matches when kind, address and data condition agree; a condition asks for a data word. -/
theorem MatchSpec.matchesRef_iff (m : MatchSpec) (r : RefReport) : m.matchesRef r = true ↔
    m.kind.covers r.kind = true ∧ r.address &&& m.mask = m.address ∧
      ∀ d, m.cond = some d → ∃ w, r.data = some w ∧ w &&& d.mask = d.value := by
  unfold matchesRef
  cases m.cond with
  | none => simp
  | some d => cases r.data <;> simp [and_assoc]

/-- A comparator that has a specification matches when it is bound and its specification does. -/
theorem Comparator.matchesRef_iff {c : Comparator} {m : MatchSpec} (hc : c.spec = some m) (r : RefReport) :
    c.matchesRef r = true ↔ c.subs ≠ [] ∧ m.matchesRef r = true := by
  simp [matchesRef, hc]

/-- Settles O21: the comparator's test is that of its specification, which is the conjunction of the three tests. -/
theorem comparatorMatch : Obligations.ComparatorMatch := by
  unfold Obligations.ComparatorMatch
  intro c m r hc
  rw [Comparator.matchesRef_iff hc, MatchSpec.matchesRef_iff, BrkKind.covers_iff]

/-! ### The record of a handle, updated -/

/-- An update of a record depends on what it does to the first record of the handle. -/
theorem updateRecord_congr {h : Handle} {f g : Record → Record} {x : Record} {rs : List Record}
    (hx : rs.find? (fun r => r.handle == h) = some x) (hfg : f x = g x) : updateRecord h f rs = updateRecord h g rs := by
  induction rs with
  | nil => rfl
  | cons y ys ih =>
    unfold updateRecord
    by_cases hy : y.handle = h
    · have hyx : y = x := by simpa [hy] using hx
      rw [if_pos hy, if_pos hy, hyx, hfg]
    · rw [if_neg hy, if_neg hy, ih (by simpa [hy] using hx)]

namespace State

variable (s : State) (t : Index) (h : Handle) (x : Record) (r : RefReport)

theorem modRecord_congr {s : State} {h : Handle} {x : Record} {f g : Record → Record} (hx : s.record? h = some x) (hfg : f x = g x) :
    s.modRecord h f = s.modRecord h g := by
  unfold modRecord
  rw [updateRecord_congr hx hfg]

/-! ### A whole report (R52, R54) -/

/-- A message that passes R170's verification is taken. -/
theorem arrives_of_wellFormed {c : Instr} {m : InMsg} (hc : c.inMsg? = some m) (hwf : c.wellFormed = true) (f : State → State) :
    s.arrives c.inMsg? f = f s := by
  unfold Instr.wellFormed at hwf
  unfold arrives
  simp only [hc] at hwf ⊢
  rw [if_pos hwf]

/-- A REF message that passes R170 is taken by an ACTIVE port as the report it carries (R173, R180). -/
theorem exec_ref {s : State} {t : Index} {kind check : Byte} {address : Addr} {data : Option Word} {k : RefKind}
    (hwf : (Instr.ref t kind address data check).wellFormed = true) (hlink : (s.port t).link = .active)
    (hk : RefKind.ofByte? kind = some k) :
    exec (.ref t kind address data check) s = .next (s.takeRef t { kind := k, address, data }) := by
  have htake : s.takeRefMsg t kind address data = s.takeRef t { kind := k, address, data } := by
    simp [takeRefMsg, hlink, hk]
  rw [← htake, ← arrives_of_wellFormed s rfl hwf (takeRefMsg t kind address data)]
  rfl

/-- Table 3-3 is read from the Run Control Unit alone. -/
theorem takesRefs_eq : s.takesRefs t = refsMatched (s.rc t) := rfl

/-- The subscribers a report is processed for, comparator by comparator (R54). -/
theorem matching_eq :
    let subs (c : Index) : List Handle := if ((s.bank t).get c).matchesRef r then ((s.bank t).get c).subs else []
    s.matching t r = subs 0 ++ subs 1 ++ subs 2 ++ subs 3 := by
  simp [matching, indices]

theorem takeRef_of_matched (hm : refsMatched (s.rc t) = true) :
    s.takeRef t r = ((s.matching t r).foldl (takeRecord r) s).watchSince s t := by
  unfold takeRef
  rw [takesRefs_eq, if_pos hm]

theorem takeRef_of_discarded (hm : refsMatched (s.rc t) = false) : s.takeRef t r = s := by
  unfold takeRef
  rw [takesRefs_eq, hm]
  rfl

/-- A handle whose record went earlier in the report is passed over. -/
theorem takeRecord_of_none {s : State} {h : Handle} (r : RefReport) (hx : s.record? h = none) : s.takeRecord r h = s := by
  unfold takeRecord
  rw [hx]

/-- Settles O22: a report let through is `takeRef`, which Table 3-3 discards or runs over the lists that stand. -/
theorem referenceTakesMatchingRecords : Obligations.ReferenceTakesMatchingRecords := by
  unfold Obligations.ReferenceTakesMatchingRecords
  intro s t kind check address data k hwf hlink hk
  refine ⟨fun hm => ?_, fun v h hv => takeRecord_of_none _ hv, fun hm => ?_⟩
  · rw [exec_ref hwf hlink hk, takeRef_of_discarded s t _ hm]
  · rw [exec_ref hwf hlink hk, takeRef_of_matched s t _ hm, matching_eq]
    rfl

/-! ### The action of a fire (R56, R58, R59, R60) -/

theorem suppressed_eq : s.suppressed x = lockedOut x s := by
  unfold suppressed lockedOut
  cases x.action <;> rfl

/-- The state after the action of a fire in `s`, its outgoing queues apart: the part of `fireEffect` between the hit count and the
persistence. -/
def actionEffect (x : Record) (s : State) : State :=
  if lockedOut x s then s
  else
    match x.action with
    | .halt => haltMessages x.target (s.rc x.target) (s.acc x.target) (s.modRc x.target (fireRc x.owner x.handle (s.acc x.target)))
    | .interrupt => s.hand x.target (.attn x.handle)
    | .notify => s

/-- A fire's effect is hit count, action and persistence, one after another. -/
theorem fireEffect_eq : s.fireEffect x =
    ((s.modRecord x.handle fun y => { y with hits := if x.hits = 0xFFFF then 0xFFFF else x.hits + 1 }).actionEffect x).applyPersistence x :=
  rfl

theorem mute_haltMessages (rc : RunControl) (a : AccessEngine) : (haltMessages t rc a s).mute = haltMessages t rc a s.mute := by
  unfold haltMessages
  cases rc.run with
  | service => cases a.inFlight <;> rfl
  | _ => rfl

theorem mute_actionEffect : (s.actionEffect x).mute = s.mute.actionEffect x := by
  have hlocked : lockedOut x s.mute = lockedOut x s := rfl
  unfold actionEffect
  rw [hlocked]
  cases lockedOut x s with
  | true => rfl
  | false =>
    cases x.action with
    | halt => exact mute_haltMessages _ _ _ _
    | interrupt => rfl
    | notify => rfl

/-- A HALT-action fire is a claim whose stop cause is the record (R11, R59). -/
theorem claimRc_brk (n : Index) (a : AccessEngine) : claimRc n (.brk h) a = fireRc n h a := by
  funext rc
  have hbrk (q : StepSeq) : q.brk.or (some h) = some (q.brk.getD h) := by cases q.brk <;> rfl
  simp only [claimRc, fireRc, hbrk]

/-- No report is matched in HALTED (Table 3-3). -/
theorem run_ne_halted_of_matched {rc : RunControl} (hm : refsMatched rc = true) : rc.run ≠ .halted := by
  intro hrun
  simp [refsMatched, hrun] at hm

/-- In a run state that matches reports, the claim of an unsuppressed HALT-action fire tells what `fireNotices` says. -/
theorem claimNotices_of_fire {s : State} {x : Record} (hm : refsMatched (s.rc x.target) = true) (hl : lockedOut x s = false)
    (ha : x.action = .halt) :
    claimNotices x.target x.owner (s.rc x.target) (s.acc x.target) = fireNotices x s := by
  simp [claimNotices, fireNotices, run_ne_halted_of_matched hm, hl, ha]

/-- A suppressed action, or one that is not HALT, changes no run state. -/
theorem fireNotices_eq_nil {s : State} {x : Record} (hq : lockedOut x s = true ∨ x.action ≠ .halt) : fireNotices x s = [] := by
  unfold fireNotices
  rcases hq with hl | ha
  · simp [hl]
  · simp [ha]

/-- A message handed goes to the port alone. -/
theorem hand_does (m : PortMsg) : s.Does (s.hand t m) (s.hand t m) [] fun _ => [] := Does.silent rfl rfl

/-- The action of an open session's record, in a run state that matches reports. -/
theorem applyAction_does (ho : s.isOpen x.owner = true) (hm : refsMatched (s.rc x.target) = true) :
    s.Does (s.applyAction x) (s.actionEffect x) [] (s.toWatchers x.target (fireNotices x s)) := by
  have hquiet (hq : lockedOut x s = true ∨ x.action ≠ .halt) (n : Index) : [] = s.toWatchers x.target (fireNotices x s) n := by
    simp [fireNotices_eq_nil hq]
  unfold applyAction actionEffect
  rw [suppressed_eq, ho]
  cases hl : lockedOut x s with
  | true => exact (Does.silent (s := s) rfl rfl).congr rfl rfl (hquiet (.inl hl))
  | false =>
    simp only [Bool.not_true, Bool.or_self, Bool.false_eq_true, if_false]
    cases ha : x.action with
    | halt =>
      rw [← claimNotices_of_fire hm hl ha, ← claimRc_brk]
      exact s.claim_does x.target x.owner (.brk x.handle)
    | interrupt => exact (s.hand_does x.target (.attn x.handle)).congr rfl rfl (hquiet (.inr (by simp [ha])))
    | notify => exact (Does.silent (s := s) rfl rfl).congr rfl rfl (hquiet (.inr (by simp [ha])))

/-! ### The persistence of a fire (R61, R62) -/

@[simp] theorem applyPersistence_links : (s.applyPersistence x).links = s.links := by
  unfold applyPersistence
  cases x.persistence <;> rfl

@[simp] theorem applyPersistence_notices : (s.applyPersistence x).notices = s.notices := by
  unfold applyPersistence
  cases x.persistence <;> rfl

theorem mute_applyPersistence : (s.applyPersistence x).mute = s.mute.applyPersistence x := by
  unfold applyPersistence
  cases x.persistence <;> rfl

/-- The persistence sends nothing, and acts on the table alone. -/
theorem Does.then_persistence {s s' b : State} {rs : List Answer} {hs : Index → List NoticeBody} (a : s.Does s' b rs hs) (x : Record) :
    s.Does (s'.applyPersistence x) (b.applyPersistence x) rs hs :=
  ⟨by rw [mute_applyPersistence, mute_applyPersistence, a.mute], a.sends.then_nothing (by simp) (by simp)⟩

/-! ### A record taken (R55, R56) -/

/-- The hit count stops at its highest value (R40). -/
theorem nextHits_eq (hits : Half) : nextHits hits = if hits = 0xFFFF then 0xFFFF else hits + 1 := by
  unfold nextHits
  by_cases hmax : hits = 0xFFFF
  · rw [if_pos hmax, if_pos hmax, hmax]
  · rw [if_neg hmax, if_neg hmax]

/-- What a fire's action tells is read from the Run Control Unit and the Access Engine of the target. -/
theorem fireNotices_of_mute {s s' : State} (hm : s'.mute = s.mute) (x : Record) : fireNotices x s' = fireNotices x s := by
  have hrc : s'.rc x.target = s.rc x.target := rc_of_mute hm x.target
  have hacc : s'.acc x.target = s.acc x.target := acc_of_mute hm x.target
  unfold fireNotices lockedOut
  rw [hrc, hacc]

/-- A fire of an open session's record: the BREAK notice goes to the owner before the STATE notices of the action. -/
theorem fire_does (ho : s.isOpen x.owner = true) (hm : refsMatched (s.rc x.target) = true) :
    s.Does (s.fire r x) (s.fireEffect x) [] fun n =>
      (if n = x.owner then [breakNotice r x s] else []) ++ s.toWatchers x.target (fireNotices x s) n := by
  set counted := s.modRecord x.handle fun y => { y with hits := if x.hits = 0xFFFF then 0xFFFF else x.hits + 1 }
  set told := counted.queueNotice x.owner (breakNotice r x s)
  have hfire : s.fire r x = (told.applyAction x).applyPersistence x := by
    unfold fire
    rw [nextHits_eq, suppressed_eq]
    rfl
  have htells : counted.Does told counted [] fun n => if n = x.owner ∧ counted.isOpen x.owner then [breakNotice r x s] else [] :=
    ⟨mute_queueNotice counted x.owner _, counted.queueNotice_sends x.owner rfl⟩
  have hacts := told.applyAction_does x ((isOpen_of_mute htells.mute x.owner).trans ho) (by rw [rc_of_mute htells.mute]; exact hm)
  have hboth := ((htells.then hacts fun _ => rfl).then_persistence x).after (s := s) rfl rfl fun _ => rfl
  have hnotices : fireNotices x told = fireNotices x s := fireNotices_of_mute htells.mute x
  rw [hfire, fireEffect_eq]
  refine hboth.congr ?_ rfl fun n => ?_
  · rw [mute_applyPersistence, mute_actionEffect, htells.mute, ← mute_actionEffect, ← mute_applyPersistence]
  · have hopen : counted.isOpen x.owner = true := ho
    have hwatch : told.watches n x.target = s.watches n x.target := watches_of_mute htells.mute n x.target
    simp only [toWatchers, hopen, and_true, hnotices, hwatch]

theorem takeRecord_of_passing {s : State} {h : Handle} {x : Record} (r : RefReport) (hx : s.record? h = some x) (hp : x.remaining ≠ 0) :
    s.takeRecord r h = s.modRecord h fun y => { y with remaining := x.remaining - 1 } := by
  unfold takeRecord
  simp only [hx, hp, if_false]
  exact modRecord_congr hx rfl

theorem takeRecord_of_due {s : State} {h : Handle} {x : Record} (r : RefReport) (hx : s.record? h = some x) (hp : x.remaining = 0) :
    s.takeRecord r h = s.fire r x := by
  unfold takeRecord
  simp only [hx, hp, if_true]

/-- Settles O23: a record with passes left is counted down; any other fires, and its fire is `fire_does`. -/
theorem takenRecordCountsOrFires : Obligations.TakenRecordCountsOrFires := by
  unfold Obligations.TakenRecordCountsOrFires
  intro s r h x hx hm ho
  refine ⟨takeRecord_of_passing r hx, fun hp => ?_⟩
  have hfire := s.fire_does x r ho hm
  rw [takeRecord_of_due r hx hp]
  exact ⟨hfire.mute, hfire.sends.answered, hfire.sends.heard⟩

end State

end Sys2Proof.Machine
end

section
/-! PROOF. QBRK (R65): the way of its frame to the Breakpoint Table, the refusals in their order, and the parts of a record. -/

namespace Sys2Proof.Machine.State

variable (s : State) (l : Index) (tag handle part : Byte)

/-- A request that names no target goes to its owner. -/
theorem handOver_of_untargeted {q : Request} (hq : q.target? = none) (cond : Option DataCond) :
    s.handOver l tag q cond = s.deliver l tag q cond := by
  unfold handOver namesNoTarget
  rw [hq]
  rfl

/-- A QBRK that passes the checks of R158 is taken at once by the Breakpoint Table: its kind is not a deferred one. -/
theorem qbrk_taken (h : s.requestOpen l tag = true) :
    s.requestArrives l tag (.qbrk handle part) = (s.afterDelivery l).takeQbrk l tag handle part := by
  have hkind : (Request.qbrk handle part).kind ∉ Request.deferredKinds := by
    show (0x22 : Byte) ∉ Request.deferredKinds
    decide
  rw [s.requestArrives_of_open l tag _ h fun hk => absurd hk hkind]
  show (s.afterFrame l).handOver l tag (.qbrk handle part) none = _
  rw [handOver_of_untargeted _ l tag rfl, deliver_afterFrame s l tag _ none ((s.requestOpen_iff l tag).1 h).1]
  rfl

/-- Whatever QBRK answers, it is one immediate response and no other change. -/
theorem qbrk_completes {s : State} {l : Index} {tag handle part : Byte} (h : s.requestOpen l tag = true) (r : Response)
    (htake : (s.afterDelivery l).takeQbrk l tag handle part = (s.afterDelivery l).respondNow l r) :
    completes (.qbrk l tag handle part) s fun s' =>
      s'.mute = (s.afterDelivery l).mute ∧ s.othersSilent s' l ∧ s.replied s' l r [] := by
  refine ⟨_, rfl, ?_⟩
  rw [qbrk_taken s l tag handle part h, htake]
  exact respondNow_of_sameVoice r (s.afterDelivery_sameVoice l) ((s.requestOpen_iff l tag).1 h).2.1

/-! ### The checks in their order -/

theorem takeQbrk_of_noHandle (hh : toHandle? handle = none) :
    s.takeQbrk l tag handle part = s.respondPlain l tag 0x22 .badOperand := by
  unfold takeQbrk
  rw [hh]

theorem takeQbrk_of_noPart {h : Handle} (hh : toHandle? handle = some h) (hp : 3 < part.toNat) :
    s.takeQbrk l tag handle part = s.respondPlain l tag 0x22 .badOperand := by
  unfold takeQbrk
  simp only [hh, hp, if_true]

theorem takeQbrk_of_noRecord {h : Handle} (hh : toHandle? handle = some h) (hp : part.toNat ≤ 3) (hx : s.record? h = none) :
    s.takeQbrk l tag handle part = s.respondPlain l tag 0x22 .noSuchBreak := by
  unfold takeQbrk
  simp only [hh, hx, Nat.not_lt.2 hp, if_false]

theorem takeQbrk_of_record {h : Handle} {x : Record} (hh : toHandle? handle = some h) (hp : part.toNat ≤ 3)
    (hx : s.record? h = some x) : s.takeQbrk l tag handle part =
      s.respondNow l { tag, status := .ok, kind := 0x22, payload := s.qbrkPayload x part } := by
  unfold takeQbrk
  simp only [hh, hx, Nat.not_lt.2 hp, if_false]

/-! ### The parts of a record (Table 8-7) -/

/-- The place of a record in its subscriber list is the same in a state with the same targets, and so is every field. -/
theorem qbrkPayload_of_targets {s s' : State} (ht : s'.targets = s.targets) (x : Record) (part : Byte) :
    s'.qbrkPayload x part = s.qbrkPayload x part := by
  simp only [qbrkPayload, position, bank, target, ht]

theorem qbrkPayload_zero (x : Record) : s.qbrkPayload x 0 =
    [indexByte x.owner, indexByte x.target, x.kind.code, x.action.code, x.persistence.code, indexByte x.comparator,
      byteOf (((s.bank x.target).get x.comparator).subs.idxOf x.handle + 1), flagByte x.cond.isSome] := rfl

theorem qbrkPayload_one (x : Record) : s.qbrkPayload x 1 = bytes24 x.address ++ bytes24 x.mask := rfl

theorem qbrkPayload_two (x : Record) : s.qbrkPayload x 2 = bytes16 x.passes ++ bytes16 x.remaining ++ bytes16 x.hits := rfl

theorem qbrkPayload_three (x : Record) : s.qbrkPayload x 3 =
    match x.cond with
    | some d => 1 :: (bytes32 d.value ++ bytes32 d.mask)
    | none => [0, 0, 0, 0, 0, 0, 0, 0, 0] := by
  unfold qbrkPayload
  cases x.cond <;> rfl

/-- A QBRK of a live record is answered with the fields of the part asked for. -/
theorem qbrk_of_record {s : State} {l : Index} {tag handle part : Byte} {h : Handle} {x : Record} {bs : List Byte}
    (hopen : s.requestOpen l tag = true) (hh : toHandle? handle = some h) (hx : s.record? h = some x) (hp : part.toNat ≤ 3)
    (hbs : s.qbrkPayload x part = bs) :
    completes (.qbrk l tag handle part) s fun s' =>
      s'.mute = (s.afterDelivery l).mute ∧ s.othersSilent s' l ∧
        s.replied s' l { tag, status := .ok, kind := 0x22, payload := bs } [] := by
  refine qbrk_completes hopen _ ?_
  rw [takeQbrk_of_record (s.afterDelivery l) l tag handle part hh hp hx, qbrkPayload_of_targets (s.afterDelivery_targets l), hbs]

/-- Settles O20: each refusal of R65, and each part of a live record, is one immediate response of `takeQbrk`. -/
theorem qbrkReturnsPart : Obligations.QbrkReturnsPart := by
  unfold Obligations.QbrkReturnsPart
  intro s l tag handle part h x hopen
  refine ⟨fun hh => ?_, fun hh => ⟨fun hp => ?_, fun hp hx => ?_, fun hx => ⟨?_, ?_, ?_, ?_⟩⟩⟩
  · exact qbrk_completes hopen _ (takeQbrk_of_noHandle _ l tag handle part hh)
  · exact qbrk_completes hopen _ (takeQbrk_of_noPart _ l tag handle part hh hp)
  · exact qbrk_completes hopen _ (takeQbrk_of_noRecord _ l tag handle part hh hp hx)
  · rintro rfl
    exact qbrk_of_record hopen hh hx (by decide) (s.qbrkPayload_zero x)
  · rintro rfl
    exact qbrk_of_record hopen hh hx (by decide) (s.qbrkPayload_one x)
  · rintro rfl
    exact qbrk_of_record hopen hh hx (by decide) (s.qbrkPayload_two x)
  · rintro rfl
    exact qbrk_of_record hopen hh hx (by decide) (s.qbrkPayload_three x)

end Sys2Proof.Machine.State
end

section
/-! PROOF. Service grants: a grant that answers the SVC_REQ (R85), and a late grant by the run state it finds (R90). -/

namespace Sys2Proof.Machine.State

variable (s : State) (t : Index)

/-! ### A grant message (R170, R178) -/

/-- A grant that passes R170 is taken by an ACTIVE port: as the answer to the SVC_REQ where SVC_PENDING has one outstanding, and as a
late grant otherwise. -/
theorem exec_svcGrant {s : State} {t : Index} {check : Byte} (hwf : (Instr.svcGrant t check).wellFormed = true)
    (hlink : (s.port t).link = .active) :
    exec (.svcGrant t check) s = .next
      (if (s.rc t).run = .svcPending ∧ s.outstandingMsg t = some .svcReq then
        (((s.clearOutstanding t).modAcc t fun a => { a with batch := 0 }).setRun t .service).examine t
      else s.lateGrant t) := by
  have htake : exec (.svcGrant t check) s = .next (s.takeGrant t) := by
    rw [← arrives_of_wellFormed s rfl hwf (takeGrant t)]
    rfl
  rw [htake, takeGrant, if_pos hlink]

/-! ### The entry to SERVICE (R85) -/

/-- What a grant does before the head is examined: the SVC_REQ is no longer outstanding, the batch count starts anew, and the watchers
hear of SERVICE. -/
theorem enterService_does :
    s.Does (((s.clearOutstanding t).modAcc t fun a => { a with batch := 0 }).setRun t .service)
      (((s.clearOutstanding t).modAcc t fun a => { a with batch := 0 }).modRc t fun r => { r with run := .service }) []
      (s.toWatchers t [.state t .service (s.rc t).hold (s.rc t).lock none]) := by
  set begun := (s.clearOutstanding t).modAcc t fun a => { a with batch := 0 } with hbegun
  have hrc : begun.rc t = s.rc t := by simp [hbegun]
  have hset := (begun.setRun_does t .service).after (s := s) rfl rfl fun _ => rfl
  refine hset.congr rfl rfl fun n => ?_
  have hwatch : begun.watches n t = s.watches n t := rfl
  simp [toWatchers, hwatch, hrc]

/-! ### A late grant (R90) -/

/-- Appending no message to a send list leaves the state as it is. -/
theorem modPort_append_nil : (s.modPort t fun p => { p with sendList := p.sendList ++ [] }) = s := by
  have hid : (fun p : Port => { p with sendList := p.sendList ++ [] }) = id := by
    funext p
    simp
  rw [hid]
  simp [modPort, modTarget]

/-- The table of R90: SVC_EXIT(resume) where the target is to run, SVC_EXIT(hold) where it is to halt, and nothing elsewhere. The message
joins the send list, and what is outstanding stays as it is. -/
theorem lateGrant_eq : s.lateGrant t = s.modPort t fun p =>
    { p with sendList := p.sendList ++
        (if (s.rc t).run ∈ [.running, .releasing] then [.svcExit false]
         else if (s.rc t).run ∈ [.stopping, .halted] then [.svcExit true] else []) } := by
  have hexit (hold : Bool) : s.hand t (.svcExit hold) = s.modPort t fun p => { p with sendList := p.sendList ++ [.svcExit hold] } :=
    s.hand_eq t (by simp)
  unfold lateGrant
  cases (s.rc t).run with
  | running | releasing => exact hexit false
  | stopping | halted => exact hexit true
  | service | stepping | unresponsive | resetting | detached | svcPending => exact (s.modPort_append_nil t).symm

/-- Settles O27: the answering grant is `enterService_does` and an examination, the late grant is `lateGrant_eq`. -/
theorem grantEntersServiceOrIsLate : Obligations.GrantEntersServiceOrIsLate := by
  unfold Obligations.GrantEntersServiceOrIsLate
  refine ⟨fun s t check hwf hlink hrun hreq => ?_, fun s t check hwf hlink hrun => ?_⟩
  · have hdoes := s.enterService_does t
    exact ⟨_, by rw [exec_svcGrant hwf hlink, if_pos ⟨hrun, hreq⟩], hdoes.mute, hdoes.sends.tells, hdoes.sends.answered⟩
  · rw [exec_svcGrant hwf hlink, if_neg fun h => hrun h.1, lateGrant_eq]

end Sys2Proof.Machine.State
end

section
/-! PROOF. PING (R120): the two refusals of R158 that it can meet, the lease that every good frame renews, and the session reported. -/

namespace Sys2Proof.Machine.State

variable (s : State) (l : Index) (tag : Byte)

/-! ### The session record after a good frame (R117) -/

theorem isOpen_of_current {s : State} {n : Index} {o : OpenSession} (hc : (s.session n).current = some o) : s.isOpen n = true := by
  simp [isOpen, hc]

theorem isOpen_of_closed {s : State} {n : Index} (hc : (s.session n).current = none) : s.isOpen n = false := by
  simp [isOpen, hc]

theorem tags_of_current {s : State} {n : Index} {o : OpenSession} (hc : (s.session n).current = some o) : s.tags n = o.tags := by
  simp [tags, hc]

/-- The outgoing queues hold no part of a session record. -/
theorem session_of_mute {s s' : State} (h : s'.mute = s.mute) (n : Index) : s'.session n = s.session n := by
  simp only [session, (parts_of_mute h).1]

/-- A good frame restarts the lease timer of its link's session at the full period, and changes nothing else of the record. -/
theorem afterFrame_current {s : State} {l : Index} {o : OpenSession} (hc : (s.session l).current = some o) :
    ((s.afterFrame l).session l).current = some { o with leaseTimer := some o.lease.toNat } := by
  simp [afterFrame, restartLease, modOpen, hc]

theorem afterDelivery_current {s : State} {l : Index} {o : OpenSession} (hc : (s.session l).current = some o) :
    ((s.afterDelivery l).session l).current = some { o with leaseTimer := some o.lease.toNat } :=
  afterFrame_current hc

/-! ### Refusals of the generic checks (R158) -/

/-- On a closed link every request but OPEN is refused (check 2). -/
theorem checkRequest_of_closed {q : Request} (hclosed : s.isOpen l = false) (hkind : q.kind ≠ 0x01) :
    s.checkRequest l tag q.kind q.toh q.ops = s.respondPlain l tag q.kind .noSession := by
  have hrefused : (!s.isOpen l && q.kind != 0x01) = true := by
    rw [hclosed, bne_iff_ne.2 hkind]
    rfl
  unfold checkRequest
  rw [if_pos hrefused]
  simp [q.kind_mem]

/-- A request whose tag is outstanding is refused, whatever its kind (check 3). -/
theorem checkRequest_of_outstanding {q : Request} (hopen : s.isOpen l = true) (htag : tag ∈ s.tags l) :
    s.checkRequest l tag q.kind q.toh q.ops = s.respondPlain l tag q.kind .dupTag := by
  unfold checkRequest
  simp [q.kind_mem, hopen, htag]

/-- An immediate response on a closed link, given in a state with the same voice as `s`: it alone is sent, and nobody hears of one that
finds no place (R163). -/
theorem respondNow_of_closed {s x : State} {l : Index} (r : Response) (h : s.SameVoice x l) (hclosed : s.isOpen l = false) :
    (x.respondNow l r).mute = x.mute ∧ s.othersSilent (x.respondNow l r) l ∧ s.repliedAfter (x.respondNow l r) l .none [] r [] := by
  obtain ⟨hmute, hsilent⟩ := x.respondNow_spec l r
  have hnotice : ∀ n, x.notice n = s.notice n := fun n => by simp only [notice, h.notices]
  have hreplied := x.respondNow_repliedAfter l r
  rw [h.isOpen, hclosed, if_neg Bool.false_ne_true] at hreplied
  exact ⟨hmute, fun n hn => by simp only [hsilent n hn, h.links n hn, hnotice, and_self],
    by simpa only [repliedAfter, heard, h.respQ, hnotice] using hreplied⟩

/-! ### PING at the Session Table (R120) -/

/-- A PING that passes the checks of R158 is taken at once by the Session Table: its kind is not a deferred one. -/
theorem ping_taken (h : s.requestOpen l tag = true) : s.requestArrives l tag .ping = (s.afterDelivery l).takePing l tag := by
  have hkind : Request.ping.kind ∉ Request.deferredKinds := by decide
  rw [s.requestArrives_of_open l tag _ h fun hk => absurd hk hkind]
  show (s.afterFrame l).handOver l tag .ping none = _
  rw [handOver_of_untargeted _ l tag rfl, deliver_afterFrame s l tag _ none ((s.requestOpen_iff l tag).1 h).1]
  rfl

/-- The Session Table's answer, which the frame itself does not change: a good frame touches only the lease timer of the record. -/
theorem takePing_afterDelivery {o : OpenSession} (hc : (s.session l).current = some o) :
    (s.afterDelivery l).takePing l tag = (s.afterDelivery l).respondNow l
      { tag, status := .ok, kind := 0x03
        payload := [o.role.code, o.lease, byteOf o.tags.length, byteOf (s.notice l).entries.length] } := by
  simp only [takePing, afterDelivery_current hc]
  rfl

/-- A PING on a closed link is refused NO_SESSION right after its frame. -/
theorem ping_of_closed (hready : s.requestReady l = true) (hclosed : s.isOpen l = false) :
    s.requestArrives l tag .ping = (s.afterFrame l).respondNow l { tag, status := .noSession, kind := 0x03, payload := [] } := by
  obtain ⟨hrx, hrouted, -⟩ := (s.requestReady_iff l).1 hready
  rw [requestArrives_of_idle s l tag .ping hrx hrouted]
  exact checkRequest_of_closed (q := .ping) _ l tag ((s.afterFrame_sameVoice l).isOpen.trans hclosed) (by decide)

/-- A PING with an outstanding tag is refused DUP_TAG right after its frame. -/
theorem ping_of_outstanding (hready : s.requestReady l = true) (hopen : s.isOpen l = true) (htag : tag ∈ s.tags l) :
    s.requestArrives l tag .ping = (s.afterFrame l).respondNow l { tag, status := .dupTag, kind := 0x03, payload := [] } := by
  obtain ⟨hrx, hrouted, -⟩ := (s.requestReady_iff l).1 hready
  rw [requestArrives_of_idle s l tag .ping hrx hrouted]
  exact checkRequest_of_outstanding (q := .ping) _ l tag ((s.afterFrame_sameVoice l).isOpen.trans hopen) (by simpa using htag)

/-- Settles O35: each of the three outcomes is one immediate response, given after the frame or the delivery, which renewed the lease. -/
theorem pingReportsAndRenews : Obligations.PingReportsAndRenews := by
  unfold Obligations.PingReportsAndRenews
  intro s l tag hready
  refine ⟨fun hnone => ⟨_, rfl, ?_⟩, fun o ho => ?_⟩
  · have hclosed := isOpen_of_closed hnone
    rw [ping_of_closed s l tag hready hclosed]
    exact respondNow_of_closed _ (s.afterFrame_sameVoice l) hclosed
  · have hc : (s.session l).current = some o := ho
    have hopen := isOpen_of_current hc
    refine ⟨fun htag => ⟨_, rfl, ?_⟩, fun htag => ⟨_, rfl, ?_⟩⟩
    · rw [ping_of_outstanding s l tag hready hopen (by rwa [tags_of_current hc])]
      obtain ⟨hmute, hsilent, hreplied⟩ := respondNow_of_sameVoice _ (s.afterFrame_sameVoice l) hopen
      exact ⟨hmute, hsilent, by rw [session_of_mute hmute, afterFrame_current hc], hreplied⟩
    · have hpasses := (s.requestOpen_iff l tag).2 ⟨hready, hopen, by rwa [tags_of_current hc]⟩
      rw [ping_taken s l tag hpasses, takePing_afterDelivery s l tag hc]
      obtain ⟨hmute, hsilent, hreplied⟩ := respondNow_of_sameVoice _ (s.afterDelivery_sameVoice l) hopen
      exact ⟨hmute, hsilent, by rw [session_of_mute hmute, afterDelivery_current hc], hreplied⟩

end Sys2Proof.Machine.State
end

section
/-! PROOF. WATCH (R142): the way of its frame to the Notice Queue, notices handed to one session alone and an immediate response after
them, and the STATE notices of the targets newly watched. -/

namespace Sys2Proof.Machine

/-! ### The WATCH target mask -/

/-- A mask without reserved bits is the byte of the set that it names. -/
theorem quadByte_maskTargets {mask : Byte} (hm : mask.toNat < 16) : quadByte (maskTargets mask) = mask := by
  have hsmall : ∀ k : Fin 16, quadByte (maskTargets (byteOf k)) = byteOf k := by decide
  have hbyte : byteOf mask.toNat = mask := by simp [byteOf]
  simpa only [hbyte] using hsmall ⟨mask.toNat, hm⟩

namespace State

variable (s : State) (l n t : Index) (tag mask : Byte) (q : Request)

/-! ### The way of the request to its owner -/

/-- A request that names no target, whose kind is neither deferred nor taken by the Link Unit, is taken by its owner at once. -/
theorem requestArrives_untargeted (h : s.requestOpen l tag = true) (hkind : q.kind ∉ Request.deferredKinds) (htarget : q.target? = none)
    (hroute : ∀ x : State, x.route l tag q = x.handOver l tag q none) :
    s.requestArrives l tag q = (s.afterDelivery l).ownerTake l tag q none := by
  rw [s.requestArrives_of_open l tag q h fun hk => absurd hk hkind, hroute, handOver_of_untargeted _ l tag htarget,
    deliver_afterFrame s l tag q none ((s.requestOpen_iff l tag).1 h).1]

/-- A WATCH that passes the checks of R158 is taken at once by the Notice Queue. -/
theorem watch_taken (h : s.requestOpen l tag = true) :
    s.requestArrives l tag (.watch mask) = (s.afterDelivery l).takeWatch l tag mask :=
  s.requestArrives_untargeted l tag (.watch mask) h (show (0x42 : Byte) ∉ Request.deferredKinds by decide) rfl fun _ => rfl

/-! ### Notices handed to one session alone -/

/-- While a response waits, the arbiter begins no notice, so it sets no sent flag (R166). -/
theorem arbitrate_notices_of_waiting (hwaiting : (s.link l).respQ ≠ []) : (s.arbitrate l).notices = s.notices := by
  obtain ⟨e, es, hq⟩ := List.exists_cons_of_ne_nil hwaiting
  unfold arbitrate
  rw [hq]
  cases (s.link l).tx <;> rfl

/-- While a response waits, an open session's queue takes a notice and begins nothing. -/
theorem queueNotice_notice_of_waiting (b : NoticeBody) (ho : s.isOpen l = true) (hwaiting : (s.link l).respQ ≠ []) :
    (s.queueNotice l b).notice l = (s.notice l).take b := by
  have hoffer := (s.modNotice l (·.take b)).arbitrate_notices_of_waiting l hwaiting
  unfold queueNotice
  rw [if_pos ho, notice, hoffer]
  exact modNotice_notice_self s l _

/-- From `s` to `x` nothing is sent but the notices `bs`, to Sl. While a response waits on Ll the queue of Sl has the very entries, sent
flags included, that taking `bs` gives: a LINK_FAULT handed next then finds the entry it may coalesce into (R134). -/
structure HearsAlone (s x : State) (l : Index) (bs : List NoticeBody) : Prop where
  respQ : (x.link l).respQ = (s.link l).respQ
  silent : s.othersSilent x l
  isOpen : x.isOpen l = s.isOpen l
  heard : s.heard x l bs
  entries : (s.link l).respQ ≠ [] → x.notice l = bs.foldl NoticeQueue.take (s.notice l)

theorem SameVoice.hearsAlone {s x : State} {l : Index} (h : s.SameVoice x l) : s.HearsAlone x l [] where
  respQ := h.respQ
  silent n hn := ⟨h.links n hn, congrArg (·.get n) h.notices⟩
  isOpen := h.isOpen
  heard := congrArg (fun ns : Quad NoticeQueue => (ns.get l).contents) h.notices
  entries _ := congrArg (·.get l) h.notices

/-- One more notice to the same session. -/
theorem HearsAlone.queueNotice {s x : State} {l : Index} {bs : List NoticeBody} {b : NoticeBody} (h : s.HearsAlone x l bs)
    (ho : s.isOpen l = true) (hb : b.isFault = false) : s.HearsAlone (x.queueNotice l b) l (bs ++ [b]) := by
  obtain ⟨hmute, hresp, hcontents, hothers⟩ := x.queueNotice_spec l b
  have hox : x.isOpen l = true := h.isOpen.trans ho
  refine ⟨(hresp l).trans h.respQ, fun n hn => ?_, (isOpen_of_mute hmute l).trans h.isOpen, ?_, fun hwaiting => ?_⟩
  · exact ⟨(hothers n hn).1.trans (h.silent n hn).1, (hothers n hn).2.trans (h.silent n hn).2⟩
  · unfold State.heard
    rw [hcontents l, if_pos ⟨rfl, hox⟩, List.foldl_append]
    exact NoticeQueue.contents_take_congr hb h.heard
  · rw [x.queueNotice_notice_of_waiting l b hox (by rwa [h.respQ]), h.entries hwaiting, List.foldl_append]
    rfl

/-- An immediate response to an open session after notices to it alone: placed, or heard as a link fault behind the notices (R163). -/
theorem HearsAlone.respondNow {s x : State} {l : Index} {bs : List NoticeBody} (h : s.HearsAlone x l bs) (ho : s.isOpen l = true)
    (r : Response) :
    (x.respondNow l r).mute = x.mute ∧ s.othersSilent (x.respondNow l r) l ∧ s.replied (x.respondNow l r) l r bs := by
  obtain ⟨hmute, hothers⟩ := x.respondNow_spec l r
  have hreplied := x.respondNow_repliedAfter l r
  rw [h.isOpen, if_pos ho] at hreplied
  refine ⟨hmute, fun n hn => ⟨(hothers n hn).1.trans (h.silent n hn).1, (hothers n hn).2.trans (h.silent n hn).2⟩, ?_⟩
  unfold replied
  unfold repliedAfter at hreplied ⊢
  simp only [List.map_nil, List.append_nil, List.nil_append, h.respQ, if_true] at hreplied ⊢
  by_cases hroom : (s.link l).respQ.length + Config.immediateNeeds ≤ Config.respPlaces
  · rw [if_pos hroom] at hreplied ⊢
    exact ⟨hreplied.1, hreplied.2.trans h.heard⟩
  · have hwaiting : (s.link l).respQ ≠ [] := fun hempty => hroom (by rw [hempty]; decide)
    rw [if_neg hroom] at hreplied ⊢
    refine ⟨hreplied.1, hreplied.2.trans ?_⟩
    rw [h.entries hwaiting, List.foldl_append]

/-! ### STATE notices to one session -/

/-- The STATE notices of the targets `ts`, handed to one open session in that order. -/
theorem HearsAlone.states {s x : State} {l : Index} {bs : List NoticeBody} (h : s.HearsAlone x l bs) (ho : s.isOpen l = true)
    (ts : List Index) :
    let told := ts.foldl (fun s' t => s'.queueNotice l (s'.stateBody t)) x
    told.mute = x.mute ∧ s.HearsAlone told l (bs ++ ts.map x.stateBody) := by
  induction ts generalizing x bs with
  | nil => exact ⟨rfl, by simpa using h⟩
  | cons t ts ih =>
    have hmute := x.mute_queueNotice l (x.stateBody t)
    have hbody : (x.queueNotice l (x.stateBody t)).stateBody = x.stateBody := funext (stateBody_congr (parts_of_mute hmute).2.2.1)
    obtain ⟨htold, hhears⟩ := ih (h.queueNotice (b := x.stateBody t) ho rfl)
    refine ⟨htold.trans hmute, ?_⟩
    simpa only [List.foldl_cons, hbody, List.append_assoc, List.singleton_append, List.map_cons] using hhears

/-! ### WATCH at the Notice Queue (R142) -/

/-- A change of the session's record, other than its being open, sends nothing. -/
theorem SameVoice.modOpen {s x : State} {l : Index} (h : s.SameVoice x l) (f : OpenSession → OpenSession) :
    s.SameVoice (x.modOpen l f) l :=
  ⟨h.respQ, h.links, h.notices, (isOpen_modOpen x l l f).trans h.isOpen⟩

/-- A good frame leaves every watch set as it is. -/
theorem watches_afterDelivery : (s.afterDelivery l).watches n t = s.watches n t :=
  watches_modOpen (s.modLink l _) n l t fun _ => rfl

theorem takeWatch_of_reserved (hm : 16 ≤ mask.toNat) :
    s.takeWatch l tag mask = s.respondNow l { tag, status := .badOperand, kind := 0x42, payload := [] } := by
  unfold takeWatch maskReserved
  rw [if_pos (decide_eq_true hm)]
  rfl

/-- A WATCH accepted: the set is replaced, the targets newly added are told, and the response names the set. -/
theorem takeWatch_of_targets (hm : mask.toNat < 16) :
    s.takeWatch l tag mask =
      ((indices.filter fun t => (maskTargets mask).get t && !s.watches l t).foldl (fun s' t => s'.queueNotice l (s'.stateBody t))
        (s.modOpen l fun o => { o with watch := maskTargets mask })).respondNow l
        { tag, status := .ok, kind := 0x42, payload := [mask] } := by
  have hreserved : ¬ maskReserved mask = true := by simpa [maskReserved] using hm
  unfold takeWatch
  simp only [if_neg hreserved, quadByte_maskTargets hm]

/-- Settles O40: a refused WATCH is one immediate response; an accepted one is that after the STATE notices of `HearsAlone.states`. -/
theorem watchReplacesSet : Obligations.WatchReplacesSet := by
  unfold Obligations.WatchReplacesSet
  intro s l tag mask h
  have ho : s.isOpen l = true := ((s.requestOpen_iff l tag).1 h).2.1
  have hvoice := s.afterDelivery_sameVoice l
  refine ⟨_, rfl, ?_⟩
  rw [watch_taken s l tag mask h]
  by_cases hm : 16 ≤ mask.toNat
  · rw [takeWatch_of_reserved _ l tag mask hm]
    obtain ⟨hmute, hsilent, hreplied⟩ := respondNow_of_sameVoice _ hvoice ho
    exact ⟨hsilent, by rw [if_pos hm]; exact ⟨hmute, hreplied⟩⟩
  · rw [takeWatch_of_targets _ l tag mask (Nat.lt_of_not_le hm)]
    simp only [watches_afterDelivery]
    obtain ⟨htold, hhears⟩ := (hvoice.modOpen fun o => { o with watch := maskTargets mask }).hearsAlone.states ho
      (indices.filter fun t => (maskTargets mask).get t && !s.watches l t)
    obtain ⟨hmute, hsilent, hreplied⟩ := hhears.respondNow ho { tag, status := .ok, kind := 0x42, payload := [mask] }
    exact ⟨hsilent, by rw [if_neg hm]; exact ⟨hmute.trans htold, hreplied⟩⟩

end State

end Sys2Proof.Machine
end

section
/-! PROOF. The five generic checks (R158): the state in which a good frame is checked, the outcome of each check for any frame whatever
its bytes spell, and the immediate response on an open or a closed link. -/

namespace Sys2Proof.Machine.State

variable (s : State) (l : Index) (tag kind toh : Byte) (ops : List Byte)

/-! ### The state in which a good frame is checked (R157) -/

/-- `s` after the check byte of a good frame: the receiver is in IDLE, the bad-frame count is cleared and the lease restarted. It differs
from `afterFrame`, whose receiver stood in IDLE before the frame. -/
def afterGoodFrame (s : State) (l : Index) : State :=
  (s.modLink l fun u => { u with rx := .idle, gapTimer := none, badFrames := 0 }).restartLease l

theorem afterGoodFrame_sameVoice : s.SameVoice (s.afterGoodFrame l) l where
  respQ := by simp [afterGoodFrame, restartLease]
  links _ hn := modLink_link_of_ne s _ hn
  notices := rfl
  isOpen := isOpen_modOpen (s.modLink l _) l l _

theorem tags_afterGoodFrame : (s.afterGoodFrame l).tags l = s.tags l := tags_modOpen_self (s.modLink l _) l _

/-- The window depends on the outstanding tags and on the places of the response queue alone (R159). -/
theorem SameVoice.windowOpen {s x : State} {l : Index} (h : s.SameVoice x l) (htags : x.tags l = s.tags l) :
    x.windowOpen l = s.windowOpen l := by
  unfold State.windowOpen outstanding freePlaces
  rw [htags, h.respQ]

theorem windowOpen_afterGoodFrame : (s.afterGoodFrame l).windowOpen l = s.windowOpen l :=
  (s.afterGoodFrame_sameVoice l).windowOpen (s.tags_afterGoodFrame l)

/-- With no routed request waiting, the check byte that agrees hands the body of its frame to the generic checks. -/
theorem exec_checkByte_good {n : Byte} (hrx : (s.link l).rx = .receiving (n :: tag :: kind :: toh :: ops))
    (hlen : n.toNat = ops.length + 3) (hrouted : (s.link l).routed = none) :
    exec (.receivedByte l (crc8 (n :: tag :: kind :: toh :: ops))) s =
      .next ((s.afterGoodFrame l).checkRequest l tag kind toh ops) := by
  have htaken : s.receiveByte l (crc8 (n :: tag :: kind :: toh :: ops)) = (s.afterGoodFrame l).checkRequest l tag kind toh ops := by
    rw [receive_check s l hrx (by simp [hlen]), endFrame_good s l hrouted rfl]
    simp only [goodFrame, modLink_modLink, afterGoodFrame]
  exact congrArg Host.Outcome.next htaken

/-! ### Each check, those before it passed (R158) -/

section Checks

variable {tag kind toh : Byte} {ops : List Byte}

/-- Check 1. -/
theorem checkRequest_of_unknownKind (hunknown : kind ∉ Request.kinds) :
    s.checkRequest l tag kind toh ops = s.respondPlain l tag kind .unknownKind := by
  simp [checkRequest, hunknown]

/-- Check 2. -/
theorem checkRequest_of_noSession (hknown : kind ∈ Request.kinds) (hsession : ¬ (s.isOpen l ∨ kind = 0x01)) :
    s.checkRequest l tag kind toh ops = s.respondPlain l tag kind .noSession := by
  obtain ⟨hclosed, hkind⟩ := not_or.1 hsession
  have hfails : (!s.isOpen l && kind != 0x01) = true := by
    rw [Bool.eq_false_of_not_eq_true hclosed, bne_iff_ne.2 hkind]
    rfl
  unfold checkRequest
  rw [if_pos hfails]
  simp [hknown]

/-- A session that is open passes check 2, and so does OPEN. -/
theorem sessionCheck_passed {s : State} {l : Index} (hsession : s.isOpen l ∨ kind = 0x01) :
    (!s.isOpen l && kind != 0x01) = false := by
  rcases hsession with hopen | rfl
  · rw [hopen]
    rfl
  · exact Bool.and_false _

/-- Check 3. -/
theorem checkRequest_of_dupTag (hknown : kind ∈ Request.kinds) (hsession : s.isOpen l ∨ kind = 0x01) (htag : tag ∈ s.tags l) :
    s.checkRequest l tag kind toh ops = s.respondPlain l tag kind .dupTag := by
  unfold checkRequest
  rw [sessionCheck_passed hsession]
  simp [hknown, htag]

/-- Check 4. -/
theorem checkRequest_of_busy (hknown : kind ∈ Request.kinds) (hsession : s.isOpen l ∨ kind = 0x01) (htag : tag ∉ s.tags l)
    (hclosed : ¬ (kind ∈ Request.deferredKinds → s.windowOpen l)) :
    s.checkRequest l tag kind toh ops = s.respondPlain l tag kind .busy := by
  obtain ⟨hdeferred, hwindow⟩ := Classical.not_imp.1 hclosed
  unfold checkRequest
  rw [sessionCheck_passed hsession]
  simp [hknown, htag, hdeferred, hwindow]

/-- A request that is not of a deferred kind passes check 4, and so does every request while the window is open (R159). -/
theorem windowCheck_passed {s : State} {l : Index} (hwindow : kind ∈ Request.deferredKinds → s.windowOpen l) :
    (Request.deferredKinds.contains kind && !s.windowOpen l) = false := by
  by_cases hdeferred : kind ∈ Request.deferredKinds
  · simp [hwindow hdeferred]
  · simp [hdeferred]

/-- Check 5. -/
theorem checkRequest_of_unspelled (hknown : kind ∈ Request.kinds) (hsession : s.isOpen l ∨ kind = 0x01) (htag : tag ∉ s.tags l)
    (hwindow : kind ∈ Request.deferredKinds → s.windowOpen l) (hspells : Request.parse kind toh ops = none) :
    s.checkRequest l tag kind toh ops = s.respondPlain l tag kind .badOperand := by
  unfold checkRequest
  rw [sessionCheck_passed hsession, windowCheck_passed hwindow, hspells]
  simp [hknown, htag]

/-- All five checks passed. -/
theorem checkRequest_of_passed {q : Request} (hknown : kind ∈ Request.kinds) (hsession : s.isOpen l ∨ kind = 0x01)
    (htag : tag ∉ s.tags l) (hwindow : kind ∈ Request.deferredKinds → s.windowOpen l) (hspells : Request.parse kind toh ops = some q) :
    s.checkRequest l tag kind toh ops = s.route l tag q := by
  unfold checkRequest
  rw [sessionCheck_passed hsession, windowCheck_passed hwindow, hspells]
  simp [hknown, htag]

end Checks

/-! ### The refusal (R163) -/

/-- An immediate response, on an open or a closed link, given in a state with the same voice as `s`: it alone is sent. -/
theorem SameVoice.respondNow {s x : State} {l : Index} (h : s.SameVoice x l) (r : Response) :
    (x.respondNow l r).mute = x.mute ∧ s.othersSilent (x.respondNow l r) l ∧
      s.repliedAfter (x.respondNow l r) l (if s.isOpen l then .session else .none) [] r [] := by
  cases hopen : s.isOpen l with
  | true => exact respondNow_of_sameVoice r h hopen
  | false => exact respondNow_of_closed r h hopen

/-- A good frame that the checks answer with status `st` ends in that immediate response, and has no further effect (R158). -/
theorem completes_of_refused {n : Byte} {st : Status} (hrx : (s.link l).rx = .receiving (n :: tag :: kind :: toh :: ops))
    (hlen : n.toNat = ops.length + 3) (hrouted : (s.link l).routed = none)
    (hcheck : (s.afterGoodFrame l).checkRequest l tag kind toh ops = (s.afterGoodFrame l).respondPlain l tag kind st) :
    completes (.receivedByte l (crc8 (n :: tag :: kind :: toh :: ops))) s fun s' =>
      s'.mute = (s.afterGoodFrame l).mute ∧ s.othersSilent s' l ∧
        s.repliedAfter s' l (if s.isOpen l then .session else .none) [] { tag, status := st, kind, payload := [] } [] := by
  refine ⟨(s.afterGoodFrame l).respondPlain l tag kind st, ?_, (s.afterGoodFrame_sameVoice l).respondNow _⟩
  rw [s.exec_checkByte_good l tag kind toh ops hrx hlen hrouted, hcheck]

/-- Settles O45: the checks read the open session, its tags and its window, which a good frame leaves as they were in `s`; a refusal is
one immediate response after the frame. -/
theorem genericChecksInOrder : Obligations.GenericChecksInOrder := by
  unfold Obligations.GenericChecksInOrder
  intro s l tag kind toh n ops hrx hlen hrouted
  have hrefused {st : Status} := s.completes_of_refused l tag kind toh ops (st := st) hrx hlen hrouted
  have hopen : (s.isOpen l ∨ kind = 0x01) ↔ ((s.afterGoodFrame l).isOpen l ∨ kind = 0x01) := by
    rw [(s.afterGoodFrame_sameVoice l).isOpen]
  rw [← s.tags_afterGoodFrame l, ← s.windowOpen_afterGoodFrame l]
  refine ⟨fun hunknown => ?_, fun hknown hsession => ?_, fun hknown hsession htag => ?_, fun hknown hsession htag hclosed => ?_,
    fun hknown hsession htag hwindow hspells => ?_, fun q hspells hknown hsession htag hwindow => ?_⟩
  · exact hrefused (checkRequest_of_unknownKind _ l hunknown)
  · exact hrefused (checkRequest_of_noSession _ l hknown (hopen.not.1 hsession))
  · exact hrefused (checkRequest_of_dupTag _ l hknown (hopen.1 hsession) (not_not.1 htag))
  · exact hrefused (checkRequest_of_busy _ l hknown (hopen.1 hsession) htag hclosed)
  · exact hrefused (checkRequest_of_unspelled _ l hknown (hopen.1 hsession) htag hwindow hspells)
  · rw [s.exec_checkByte_good l tag kind toh ops hrx hlen hrouted,
      checkRequest_of_passed _ l hknown (hopen.1 hsession) htag hwindow hspells]
    rfl

end Sys2Proof.Machine.State
end

section
/-! PROOF. What every operation keeps, whatever it is for: the Notice Queues in order, the Breakpoint Table and the banks in agreement,
and the windows balanced with what the blocks owe. `Orderly` says so of two states; it holds of each small operation and passes along a
chain of them. Left out here, and treated where they stand: a session that opens or ends, a new record, a new outstanding tag and a hub
reset. -/

namespace Sys2Proof.Machine

/-! ### Notice Queues in order (R128, R129, R130) -/

/-- The numbering and the place of OVERRUN in one queue, as `noticesKept` has them. -/
def NoticeQueue.Kept (q : NoticeQueue) : Prop :=
  q.entries.length ≤ 16 ∧
  (∀ (i : Nat) (h : i < q.entries.length),
    (q.entries[i]'h).seq = q.nextSeq - BitVec.ofNat 8 (q.entries.length - i) ∧
    ((q.entries[i]'h).body = .overrun → i + 1 = q.entries.length)) ∧
  (q.entries.length = 16 → ∃ e, q.entries.getLast? = some e ∧ e.body = .overrun)

namespace NoticeQueue

/-- What `Kept` reads of an entry. -/
def sign (e : NoticeEntry) : Byte × Bool := (e.seq, e.body == .overrun)

theorem kept_of_empty {q : NoticeQueue} (h : q.entries = []) : q.Kept := by
  simp [Kept, h]

/-- `Kept` depends on the numbers and on which entries are OVERRUN alone. -/
theorem Kept.congr {q q' : NoticeQueue} (h : q.Kept) (hsign : q'.entries.map sign = q.entries.map sign) (hnext : q'.nextSeq = q.nextSeq) :
    q'.Kept := by
  have hlen : q'.entries.length = q.entries.length := by simpa using congrArg List.length hsign
  obtain ⟨h16, hat, hlast⟩ := h
  have hsame (i : Nat) (hi : i < q.entries.length) (hi' : i < q'.entries.length) : sign q'.entries[i] = sign q.entries[i] := by
    have := congrArg (fun l => l[i]?) hsign
    simpa [hi, hi'] using this
  refine ⟨hlen ▸ h16, fun i hi => ?_, fun hfull => ?_⟩
  · have hi' : i < q.entries.length := hlen ▸ hi
    have hs := hsame i hi' hi
    simp only [sign, Prod.mk.injEq] at hs
    obtain ⟨hseq, hover⟩ := hat i hi'
    refine ⟨by rw [hs.1, hseq, hnext, hlen], fun hb => ?_⟩
    rw [hlen]
    exact hover (by simpa [hb] using hs.2.symm)
  · obtain ⟨e, he, hb⟩ := hlast (hlen ▸ hfull)
    have hl := congrArg List.getLast? hsign
    simp only [List.getLast?_map, he, Option.map_some] at hl
    obtain ⟨e', he', hs⟩ := Option.map_eq_some_iff.1 hl
    refine ⟨e', he', ?_⟩
    simp only [sign, Prod.mk.injEq] at hs
    simpa [hb] using hs.2

/-- The entries behind some of the oldest are numbered as before. -/
theorem Kept.of_suffix {q : NoticeQueue} {old new : List NoticeEntry} (h : q.Kept) (hq : q.entries = old ++ new) :
    ({ q with entries := new } : NoticeQueue).Kept := by
  obtain ⟨h16, hat, hlast⟩ := h
  rw [hq, List.length_append] at h16
  refine ⟨by simp only; omega, fun i hi => ?_, fun hfull => ?_⟩
  · have hi' : old.length + i < q.entries.length := by rw [hq, List.length_append]; simp only at hi; omega
    have he : q.entries[old.length + i] = new[i]'hi := by simp [hq]
    have hlen : q.entries.length - (old.length + i) = new.length - i := by rw [hq, List.length_append]; omega
    obtain ⟨hseq, hover⟩ := hat _ hi'
    rw [he, hlen] at hseq
    rw [he, hq, List.length_append] at hover
    exact ⟨hseq, fun hb => by have := hover hb; simp only; omega⟩
  · simp only at hfull
    have hold : old = [] := List.length_eq_zero_iff.1 (by omega)
    subst hold
    simpa [hq] using hlast (by simp [hq, hfull])

@[simp] theorem sign_addFault (e : NoticeEntry) : sign e.addFault = sign e := by
  unfold NoticeEntry.addFault
  split <;> simp_all [sign]

theorem map_sign_coalesceFault (es : List NoticeEntry) : (coalesceFault es).map sign = es.map sign := by
  induction es with
  | nil => rfl
  | cons e es ih => unfold coalesceFault; split <;> simp [ih]

theorem map_sign_unsend (older : Bool) (es : List NoticeEntry) : (unsend older es).map sign = es.map sign := by
  induction es generalizing older with
  | nil => rfl
  | cons e es ih => simp [unsend, ih, sign]

/-- An entry appended to a queue without OVERRUN takes the next number; the sixteenth is OVERRUN. -/
theorem Kept.append {q : NoticeQueue} (h : q.Kept) (hno : q.hasOverrun = false) {b : NoticeBody}
    (hroom : q.entries.length < 15 ∨ b = .overrun) : (q.append b).Kept := by
  obtain ⟨h16, hat, hlast⟩ := h
  have hnone : ∀ e ∈ q.entries, e.body ≠ .overrun := by simpa [hasOverrun] using hno
  have h15 : q.entries.length ≤ 15 := by
    by_contra hgt
    obtain ⟨e, he, hb⟩ := hlast (by omega)
    exact hnone e (List.mem_of_getLast? he) hb
  refine ⟨by simp [NoticeQueue.append]; omega, fun i hi => ?_, fun hfull => ?_⟩
  · simp only [NoticeQueue.append, List.length_append, List.length_singleton] at hi ⊢
    rcases Nat.lt_or_ge i q.entries.length with hlt | hge
    · rw [List.getElem_append_left hlt]
      refine ⟨?_, fun hb => absurd hb (hnone _ (List.getElem_mem hlt))⟩
      rw [(hat i hlt).1, show q.entries.length + 1 - i = (q.entries.length - i) + 1 by omega]
      simp only [BitVec.ofNat_add]
      generalize BitVec.ofNat 8 (q.entries.length - i) = k
      bv_omega
    · obtain rfl : i = q.entries.length := by omega
      simp
  · simp only [NoticeQueue.append, List.length_append, List.length_singleton] at hfull
    refine ⟨_, List.getLast?_concat, ?_⟩
    rcases hroom with hlt | rfl
    · omega
    · rfl

/-- A notice handed leaves a queue in order, by each line of R130's table. -/
theorem Kept.take {q : NoticeQueue} (h : q.Kept) (b : NoticeBody) : (q.take b).Kept := by
  unfold NoticeQueue.take
  split
  · exact h
  · rename_i hno
    split
    · exact h.congr (map_sign_coalesceFault _) rfl
    · split
      · rename_i hroom
        exact h.append (by simpa using hno) (.inl hroom)
      · exact h.append (by simpa using hno) (.inr rfl)

/-- The part after a number is what stands behind it in the queue (R138). -/
theorem afterSeq?_eq_some {seq : Byte} {es rest : List NoticeEntry} (h : afterSeq? seq es = some rest) : ∃ old, es = old ++ rest := by
  induction es with
  | nil => simp [afterSeq?] at h
  | cons e es ih =>
    unfold afterSeq? at h
    split at h
    · exact ⟨[e], by simpa using h⟩
    · obtain ⟨old, rfl⟩ := ih h
      exact ⟨e :: old, rfl⟩

end NoticeQueue

/-! ### What the blocks owe (R121) -/

/-- The tags that a Run Control Unit owes Sn an answer for. -/
def RunControl.owed (r : RunControl) (n : Index) : List Byte :=
  (r.waiters.filter fun w => w.session == n).map (·.tag) ++
    ((r.stepSeq.toList.filter fun q => q.session == n && !q.discard).map (·.tag)) ++
    ((r.resetRec.toList.filter fun q => q.session == n && !q.discard).map (·.tag))

/-- The tags that an Access Engine owes Sn an answer for. -/
def AccessEngine.owed (a : AccessEngine) (n : Index) : List Byte :=
  (a.queue.filter fun e => e.session == n && !e.discard).map (·.tag)

namespace State

/-- The tags of the deferred responses `rs` to Sn. -/
def tagsFor (n : Index) (rs : List Answer) : List Byte := (rs.filter fun x => x.1 == n).map (·.2.tag)

@[simp] theorem tagsFor_nil (n : Index) : tagsFor n [] = [] := rfl

theorem tagsFor_append (n : Index) (rs rs' : List Answer) : tagsFor n (rs ++ rs') = tagsFor n rs ++ tagsFor n rs' := by
  simp [tagsFor]

/-- What Sn is owed, target by target. -/
theorem owed_eq (s : State) (n : Index) : s.owed n = (indices.map fun t => (s.rc t).owed n ++ (s.acc t).owed n).flatten := rfl

theorem count_owed (s : State) (n : Index) (tag : Byte) : (s.owed n).count tag =
    ((s.rc 0).owed n ++ (s.acc 0).owed n).count tag + (((s.rc 1).owed n ++ (s.acc 1).owed n).count tag +
      (((s.rc 2).owed n ++ (s.acc 2).owed n).count tag + ((s.rc 3).owed n ++ (s.acc 3).owed n).count tag)) := by
  simp only [owed_eq, indices, List.map_cons, List.map_nil, List.flatten_cons, List.flatten_nil, List.count_append, List.count_nil]
  omega

/-- Where one target's blocks give the answers `ts` and the others owe what they owed, Sn is owed all but those. -/
theorem owed_perm_of_target {s b : State} {t n : Index} {ts : List Byte}
    (hother : ∀ u, u ≠ t → b.rc u = s.rc u ∧ b.acc u = s.acc u)
    (ht : ((s.rc t).owed n ++ (s.acc t).owed n).Perm (((b.rc t).owed n ++ (b.acc t).owed n) ++ ts)) :
    (s.owed n).Perm (b.owed n ++ ts) := by
  rw [List.perm_iff_count] at ht ⊢
  intro tag
  have htag := ht tag
  rw [List.count_append (l₂ := ts), count_owed, count_owed]
  rw [List.count_append (l₂ := ts)] at htag
  have hsame (u : Index) (hu : u ≠ t) :
      ((b.rc u).owed n ++ (b.acc u).owed n).count tag = ((s.rc u).owed n ++ (s.acc u).owed n).count tag := by
    rw [(hother u hu).1, (hother u hu).2]
  have h0 := hsame 0; have h1 := hsame 1; have h2 := hsame 2; have h3 := hsame 3
  fin_cases t <;> simp at htag h0 h1 h2 h3 ⊢ <;> omega

/-! ### The window of one session -/

/-- `windowKept` for one session, `e` being the tags of its window that no block has taken over yet. -/
def windowOf (s : State) (n : Index) (e : List Byte) : Prop :=
  (s.tags n).Perm (s.owed n ++ e) ∧ (s.tags n).Nodup ∧ s.outstanding n ≤ 4 ∧ (s.link n).respQ.length + s.outstanding n ≤ 8 ∧
    (∀ r ∈ (s.link n).routed,
      (r.inSession = false → r.request.kind = 0x01) ∧
      (s.isOpen n → ¬ r.tag ∈ s.tags n ∧ (r.request.kind ∈ Request.deferredKinds → s.windowOpen n)))

theorem windowKept_iff {s : State} : s.windowKept ↔ ∀ n, s.windowOf n [] := by
  simp only [windowKept, windowOf, List.append_nil]

/-- The window admits a further tag below 4 of them, while the response queue has a place for each and one more (R159). -/
theorem windowOpen_iff (s : State) (n : Index) :
    s.windowOpen n = true ↔ s.outstanding n < 4 ∧ (s.link n).respQ.length + s.outstanding n < 8 := by
  unfold State.windowOpen freePlaces
  rw [Bool.and_eq_true, decide_eq_true_eq, decide_eq_true_eq]
  simp only [Config.maxOutstanding, Config.respPlaces]
  omega

/-- The tags of the answers given leave the window. -/
theorem tags_leaves (s : State) (n : Index) (rs : List Answer) : (s.leaves rs).tags n = (s.tags n).diff (tagsFor n rs) := by
  induction rs generalizing s with
  | nil => rfl
  | cons x xs ih =>
    show ((s.leaveWindow x.1 x.2.tag).leaves xs).tags n = _
    rw [ih]
    by_cases h : x.1 = n
    · subst h
      simp [tagsFor, tags_leaveWindow]
    · have hsame : (s.leaveWindow x.1 x.2.tag).tags n = s.tags n := by
        simp [tags, leaveWindow, modOpen, modSession_session_of_ne s _ (Ne.symm h)]
      simp [tagsFor, h, hsame]

/-- The window is what is left of it and the tags of the answers given. -/
theorem tags_split {s s' : State} {n : Index} {e ts : List Byte} (h : s.windowOf n e) (htags : s'.tags n = (s.tags n).diff ts)
    (howed : (s.owed n).Perm (s'.owed n ++ ts)) : (s.tags n).Perm (s'.tags n ++ ts) := by
  have hsub : ts.Subperm (s.tags n) :=
    (List.sublist_append_right _ _).subperm.trans
      ((howed.symm.subperm.trans (List.sublist_append_left _ _).subperm).trans h.1.symm.subperm)
  rw [htags]
  exact (List.subperm_append_diff_self_of_count_le (List.subperm_ext_iff.1 hsub)).symm.trans List.perm_append_comm

/-- A window that admits a request still does when tags leave it for places of the response queue. -/
theorem windowOpen_of_answers {s s' : State} {n : Index} {ts : List Byte} (hsplit : (s.tags n).Perm (s'.tags n ++ ts))
    (hresp : (s'.link n).respQ.length = (s.link n).respQ.length + ts.length) (hw : s.windowOpen n = true) :
    s'.windowOpen n = true := by
  have hlen : s.outstanding n = s'.outstanding n + ts.length := by simpa [outstanding] using hsplit.length_eq
  rw [windowOpen_iff] at hw ⊢
  omega

/-- A window stays balanced when answers are given: each takes its tag out of the window and out of what is owed, and takes the place that
was kept for it (R164). -/
theorem windowOf_of_answers {s s' : State} {n : Index} {e ts : List Byte} (h : s.windowOf n e) (ho : s'.isOpen n = s.isOpen n)
    (htags : s'.tags n = (s.tags n).diff ts) (howed : (s.owed n).Perm (s'.owed n ++ ts))
    (hresp : (s'.link n).respQ.length = (s.link n).respQ.length + ts.length) (hrouted : (s'.link n).routed = (s.link n).routed) :
    s'.windowOf n e := by
  have hsplit := tags_split h htags howed
  have hlen : s.outstanding n = s'.outstanding n + ts.length := by simpa [outstanding] using hsplit.length_eq
  obtain ⟨hperm, hnodup, h4, h8, hr⟩ := h
  refine ⟨?_, ?_, by omega, by omega, fun r hmem => ?_⟩
  · have hall : (s'.tags n ++ ts).Perm ((s'.owed n ++ e) ++ ts) :=
      (hsplit.symm.trans hperm).trans ((howed.append_right e).trans (by
        rw [List.append_assoc, List.append_assoc]
        exact List.perm_append_comm.append_left _))
    exact (List.perm_append_right_iff ts).1 hall
  · exact (hsplit.nodup_iff.1 hnodup).sublist (List.sublist_append_left _ _)
  · obtain ⟨hin, hout⟩ := hr r (hrouted ▸ hmem)
    refine ⟨hin, fun hopen => ?_⟩
    obtain ⟨htag, hw⟩ := hout (ho ▸ hopen)
    exact ⟨fun hmem' => htag (hsplit.mem_iff.2 (List.mem_append_left _ hmem')), fun hk => windowOpen_of_answers hsplit hresp (hw hk)⟩

end State

end Sys2Proof.Machine
end

section
/-! PROOF. Orderly operations: what a session, its window, its queue and the banks keep from one state to the next, and how an operation in one of the
closed forms of Safety.lean is shown to be orderly. -/

namespace Sys2Proof.Machine

theorem NoticeQueue.map_sign_eq (q : NoticeQueue) : q.entries.map sign = q.contents.1.map fun x => (x.1, x.2 == .overrun) := by
  simp [contents, sign, Function.comp_def]

theorem NoticeQueue.Kept.of_contents {q q' : NoticeQueue} (h : q.Kept) (hc : q'.contents = q.contents) : q'.Kept :=
  h.congr (by rw [map_sign_eq, map_sign_eq, hc]) (congrArg Prod.snd hc)

theorem NoticeQueue.Kept.foldl_take {q : NoticeQueue} (h : q.Kept) (bs : List NoticeBody) : (bs.foldl NoticeQueue.take q).Kept := by
  induction bs generalizing q with
  | nil => exact h
  | cons b bs ih => exact ih (h.take b)

namespace State

/-! ### Orderly operations -/

theorem noticesKept_iff {s : State} :
    s.noticesKept ↔ ∀ n, (s.notice n).Kept ∧ (s.isOpen n = false → (s.notice n).entries = []) := by
  unfold noticesKept NoticeQueue.Kept
  exact forall_congr' fun n => by tauto

/-- From `s` to `s'` no session opens or ends and no request is routed or taken; the queues and the banks are kept. -/
structure Tidy (s s' : State) : Prop where
  isOpen : ∀ n, s'.isOpen n = s.isOpen n
  routed : ∀ n, (s'.link n).routed = (s.link n).routed
  queue : ∀ n, (s.notice n).Kept → (s'.notice n).Kept
  closed : ∀ n, s.isOpen n = false → (s.notice n).entries = [] → (s'.notice n).entries = []
  banks : s.banksKept → s'.banksKept

/-- The same, and the windows are kept: no tag joins one, no block owes more than it did, and a window that admits a request still does. -/
structure Orderly (s s' : State) : Prop extends Tidy s s' where
  window : ∀ n e, s.isOpen n = true → s.windowOf n e → s'.windowOf n e
  spare : ∀ n e, s.windowOf n e → s.windowOpen n = true → s'.windowOpen n = true
  fewer : ∀ n, s'.tags n ⊆ s.tags n
  places : ∀ n, s.isOpen n = false → (s.link n).respQ.length ≤ 8 → (s'.link n).respQ.length ≤ 8
  rcOwes : ∀ t n, (s'.rc t).owed n ⊆ (s.rc t).owed n
  accOwes : ∀ t n, (s'.acc t).owed n ⊆ (s.acc t).owed n

theorem Tidy.refl (s : State) : s.Tidy s where
  isOpen _ := rfl
  routed _ := rfl
  queue _ h := h
  closed _ _ h := h
  banks h := h

theorem Tidy.trans {s x y : State} (h : s.Tidy x) (h' : x.Tidy y) : s.Tidy y where
  isOpen n := (h'.isOpen n).trans (h.isOpen n)
  routed n := (h'.routed n).trans (h.routed n)
  queue n hq := h'.queue n (h.queue n hq)
  closed n ho hq := h'.closed n ((h.isOpen n).trans ho) (h.closed n ho hq)
  banks hb := h'.banks (h.banks hb)

theorem Tidy.noticesKept {s s' : State} (h : s.Tidy s') (hk : s.noticesKept) : s'.noticesKept := by
  rw [noticesKept_iff] at hk ⊢
  intro n
  obtain ⟨hq, hclosed⟩ := hk n
  refine ⟨h.queue n hq, fun ho => ?_⟩
  have ho' := (h.isOpen n).symm.trans ho
  exact h.closed n ho' (hclosed ho')

/-- A CLOSED record has no tags. -/
theorem tags_of_closed {s : State} {n : Index} (h : s.isOpen n = false) : s.tags n = [] := by
  have hc : (s.session n).current = none := by simpa [State.isOpen] using h
  simp [tags, hc]

/-- The window of a CLOSED session: nothing is owed, and the response queue holds at most 8. -/
theorem windowOf_of_closed {s : State} {n : Index} (h : s.isOpen n = false) : s.windowOf n [] ↔
    s.owed n = [] ∧ (s.link n).respQ.length ≤ 8 ∧ ∀ r ∈ (s.link n).routed, r.inSession = false → r.request.kind = 0x01 := by
  simp [windowOf, h, outstanding, tags_of_closed h]

/-- Nothing is owed when no block owes anything. -/
theorem owed_eq_nil {s : State} {n : Index} : s.owed n = [] ↔ ∀ t, (s.rc t).owed n = [] ∧ (s.acc t).owed n = [] := by
  rw [owed_eq]
  simp

namespace Orderly

theorem refl (s : State) : s.Orderly s where
  toTidy := .refl s
  window _ _ _ h := h
  spare _ _ _ h := h
  fewer _ := List.Subset.refl _
  places _ _ h := h
  rcOwes _ _ := List.Subset.refl _
  accOwes _ _ := List.Subset.refl _

/-- Windows, of open and CLOSED sessions alike. -/
theorem windowOf {s s' : State} (h : s.Orderly s') {n : Index} {e : List Byte} (hw : s.windowOf n e) : s'.windowOf n e := by
  cases ho : s.isOpen n with
  | true => exact h.window n e ho hw
  | false =>
    have he : e = [] := by
      have hperm := hw.1
      rw [tags_of_closed ho] at hperm
      exact (List.append_eq_nil_iff.1 hperm.symm.eq_nil).2
    subst he
    obtain ⟨howed, hplaces, hrouted⟩ := (windowOf_of_closed ho).1 hw
    refine (windowOf_of_closed ((h.isOpen n).trans ho)).2 ⟨owed_eq_nil.2 fun t => ?_, h.places n ho hplaces, h.routed n ▸ hrouted⟩
    obtain ⟨hr, ha⟩ := owed_eq_nil.1 howed t
    exact ⟨List.subset_nil.1 (hr ▸ h.rcOwes t n), List.subset_nil.1 (ha ▸ h.accOwes t n)⟩

theorem trans {s x y : State} (h : s.Orderly x) (h' : x.Orderly y) : s.Orderly y where
  toTidy := h.toTidy.trans h'.toTidy
  window n e ho hw := h'.window n e ((h.isOpen n).trans ho) (h.window n e ho hw)
  spare n e hw ha := h'.spare n e (h.windowOf hw) (h.spare n e hw ha)
  fewer n := List.Subset.trans (h'.fewer n) (h.fewer n)
  places n ho hp := h'.places n ((h.isOpen n).trans ho) (h.places n ho hp)
  rcOwes t n := List.Subset.trans (h'.rcOwes t n) (h.rcOwes t n)
  accOwes t n := List.Subset.trans (h'.accOwes t n) (h.accOwes t n)

end Orderly

/-- `banksKept` reads the records and the banks alone. -/
theorem banksKept_congr {s s' : State} (hrec : s'.records = s.records) (hbank : ∀ t, s'.bank t = s.bank t) (h : s.banksKept) :
    s'.banksKept := by
  unfold banksKept at h ⊢
  simpa only [hrec, hbank] using h

/-- Sessions that differ in what `leaves` takes out have the same records open and the same tags left. -/
theorem isOpen_of_leaves {s b : State} {rs : List Answer} (h : b.sessions = (s.leaves rs).sessions) (n : Index) : b.isOpen n = s.isOpen n :=
  (isOpen_congr h n).trans (isOpen_leaves s n rs)

/-- What a list of answers adds to the response queue of an open session. -/
theorem length_of_answered {s s' : State} {rs : List Answer} (h : s.answered s' rs) {n : Index} (ho : s.isOpen n = true) :
    (s'.link n).respQ.length = (s.link n).respQ.length + (tagsFor n rs).length := by
  rw [h n]
  simp [tagsFor, ho]

/-- An operation in closed form is orderly when it takes the tag of each answer out of the window and out of what is owed. -/
theorem Orderly.of_base {s s' b : State} {rs : List Answer} {hs : Index → List NoticeBody}
    (hmute : s'.mute = b.mute) (hanswered : s.answered s' rs) (hheard : ∀ n, s.heard s' n (hs n))
    (hquiet : ∀ n, s.isOpen n = false → hs n = []) (hopen : ∀ n, b.isOpen n = s.isOpen n)
    (htags : ∀ n, b.tags n = (s.tags n).diff (tagsFor n rs))
    (hrouted : ∀ n, (b.link n).routed = (s.link n).routed) (hrec : b.records = s.records) (hbank : ∀ u, b.bank u = s.bank u)
    (howed : ∀ n, s.isOpen n = true → (s.owed n).Perm (b.owed n ++ tagsFor n rs))
    (hrc : ∀ t n, (b.rc t).owed n ⊆ (s.rc t).owed n) (hacc : ∀ t n, (b.acc t).owed n ⊆ (s.acc t).owed n) : s.Orderly s' := by
  obtain ⟨hsess, hrec', -, -, -, hlinks⟩ := parts_of_mute hmute
  have hopen' (n : Index) : s'.isOpen n = s.isOpen n := (isOpen_of_mute hmute n).trans (hopen n)
  have hrouted' (n : Index) : (s'.link n).routed = (s.link n).routed := (congrArg (·.routed) (hlinks n)).trans (hrouted n)
  have htags' (n : Index) : s'.tags n = (s.tags n).diff (tagsFor n rs) := (tags_congr hsess n).trans (htags n)
  have howed' (n : Index) (ho : s.isOpen n = true) : (s.owed n).Perm (s'.owed n ++ tagsFor n rs) := by
    have hsame : s'.owed n = b.owed n := by simp only [State.owed, rc_of_mute hmute, acc_of_mute hmute]
    exact hsame ▸ howed n ho
  have hempty (n : Index) (ho : s.isOpen n = false) : (s'.notice n).contents = (s.notice n).contents := by
    have := hheard n
    rwa [hquiet n ho] at this
  have hclosed (n : Index) (ho : s.isOpen n = false) : (s'.link n).respQ = (s.link n).respQ := by
    rw [hanswered n]
    simp [ho]
  refine ⟨⟨hopen', hrouted', fun n hq => (hq.foldl_take (hs n)).of_contents (hheard n), fun n ho hq => ?_, fun hb => ?_⟩,
    fun n e ho hw => ?_, fun n e hw ha => ?_, fun n => ?_, fun n ho hp => hclosed n ho ▸ hp, fun t n => rc_of_mute hmute t ▸ hrc t n,
    fun t n => acc_of_mute hmute t ▸ hacc t n⟩
  · rw [← NoticeQueue.contents_nil_iff, hempty n ho, NoticeQueue.contents_nil_iff, hq]
  · exact banksKept_congr (hrec'.trans hrec) (fun u => (bank_of_mute hmute u).trans (hbank u)) hb
  · exact windowOf_of_answers hw (hopen' n) (htags' n) (howed' n ho) (length_of_answered hanswered ho) (hrouted' n)
  · cases ho : s.isOpen n with
    | true =>
      exact windowOpen_of_answers (tags_split hw (htags' n) (howed' n ho)) (length_of_answered hanswered ho) ha
    | false =>
      rw [windowOpen_iff] at ha ⊢
      simpa [outstanding, htags' n, tags_of_closed ho, hclosed n ho] using ha
  · rw [htags' n]
    exact List.diff_subset _ _

/-- An operation on target `t` in one of the closed forms of Safety.lean. -/
theorem Orderly.of_does {s s' b : State} {rs : List Answer} {hs : Index → List NoticeBody} (d : s.Does s' b rs hs) (t : Index)
    (hquiet : ∀ n, s.isOpen n = false → hs n = []) (hsess : b.sessions = (s.leaves rs).sessions) (hlinks : b.links = s.links)
    (hrec : b.records = s.records) (hbank : ∀ u, b.bank u = s.bank u)
    (hother : ∀ u, u ≠ t → b.rc u = s.rc u ∧ b.acc u = s.acc u)
    (howed : ∀ n, ((s.rc t).owed n ++ (s.acc t).owed n).Perm (((b.rc t).owed n ++ (b.acc t).owed n) ++ tagsFor n rs))
    (hrc : ∀ n, (b.rc t).owed n ⊆ (s.rc t).owed n) (hacc : ∀ n, (b.acc t).owed n ⊆ (s.acc t).owed n) : s.Orderly s' := by
  refine .of_base d.mute d.sends.answered d.sends.heard hquiet (isOpen_of_leaves hsess) (fun n => ?_) (fun n => ?_) hrec hbank
    (fun n _ => owed_perm_of_target hother (howed n)) (fun u n => ?_) fun u n => ?_
  · rw [tags_congr hsess, tags_leaves]
  · rw [link, hlinks]; rfl
  · by_cases hu : u = t
    · exact hu ▸ hrc n
    · exact (hother u hu).1 ▸ List.Subset.refl _
  · by_cases hu : u = t
    · exact hu ▸ hacc n
    · exact (hother u hu).2 ▸ List.Subset.refl _

/-- An operation that answers nothing and changes nothing owed. -/
theorem Orderly.of_unanswered {s s' b : State} {hs : Index → List NoticeBody} (hmute : s'.mute = b.mute) (hanswered : s.answered s' [])
    (hheard : ∀ n, s.heard s' n (hs n)) (hquiet : ∀ n, s.isOpen n = false → hs n = [])
    (hopen : ∀ n, b.isOpen n = s.isOpen n) (htags : ∀ n, b.tags n = s.tags n)
    (hrouted : ∀ n, (b.link n).routed = (s.link n).routed) (hrec : b.records = s.records) (hbank : ∀ u, b.bank u = s.bank u)
    (hrc : ∀ t n, (b.rc t).owed n = (s.rc t).owed n) (hacc : ∀ t n, (b.acc t).owed n = (s.acc t).owed n) : s.Orderly s' :=
  .of_base hmute hanswered hheard hquiet hopen htags hrouted hrec hbank
    (fun n _ => by simp [owed_eq, hrc, hacc]) (fun t n => hrc t n ▸ List.Subset.refl _) fun t n => hacc t n ▸ List.Subset.refl _

end State

end Sys2Proof.Machine
end

section
/-! PROOF. The operations on links, sessions, notices, the port and run control are orderly. -/

namespace Sys2Proof.Machine.State

/-! ### The small operations are orderly -/

namespace Orderly

variable {s x : State} (h : s.Orderly x) (l n t : Index)

include h

theorem modLink (f : LinkUnit → LinkUnit) (hrespQ : (f (x.link l)).respQ = (x.link l).respQ)
    (hrouted : (f (x.link l)).routed = (x.link l).routed) : s.Orderly (x.modLink l f) := by
  have hsame (m : Index) : ((x.modLink l f).link m).respQ = (x.link m).respQ ∧ ((x.modLink l f).link m).routed = (x.link m).routed := by
    by_cases hm : m = l
    · subst hm; simp [hrespQ, hrouted]
    · simp [modLink_link_of_ne x f hm]
  refine h.trans (.of_unanswered (hs := fun _ => []) rfl (fun m => ?_) (fun _ => rfl) (fun _ _ => rfl) (fun _ => rfl) (fun _ => rfl)
    (fun m => (hsame m).2) rfl (fun _ => rfl) (fun _ _ => rfl) fun _ _ => rfl)
  simp [(hsame m).1]

theorem modRc (f : RunControl → RunControl) (hf : ∀ n, (f (x.rc t)).owed n = (x.rc t).owed n := by intro; rfl) :
    s.Orderly (x.modRc t f) := by
  refine h.trans (.of_unanswered (hs := fun _ => []) rfl (fun m => by simp) (fun _ => rfl) (fun _ _ => rfl) (fun _ => rfl) (fun _ => rfl)
    (fun _ => rfl) rfl (fun _ => by simp) (fun u m => ?_) fun _ _ => by simp)
  by_cases hu : u = t
  · subst hu; simp [hf]
  · rw [modRc_rc_of_ne x f hu]

theorem modAcc (f : AccessEngine → AccessEngine) (hf : ∀ n, (f (x.acc t)).owed n = (x.acc t).owed n := by intro; rfl) :
    s.Orderly (x.modAcc t f) := by
  refine h.trans (.of_unanswered (hs := fun _ => []) rfl (fun m => by simp) (fun _ => rfl) (fun _ _ => rfl) (fun _ => rfl) (fun _ => rfl)
    (fun _ => rfl) rfl (fun _ => by simp) (fun _ _ => by simp) fun u m => ?_)
  by_cases hu : u = t
  · subst hu; simp [hf]
  · rw [modAcc_acc_of_ne x f hu]

theorem modPort (f : Port → Port) : s.Orderly (x.modPort t f) :=
  h.trans (.of_unanswered (hs := fun _ => []) rfl (fun m => by simp) (fun _ => rfl) (fun _ _ => rfl) (fun _ => rfl) (fun _ => rfl)
    (fun _ => rfl) rfl (fun _ => by simp) (fun _ _ => by simp) fun _ _ => by simp)

theorem modCfg (f : PortConfig → PortConfig) : s.Orderly (x.modCfg t f) :=
  h.trans (.of_unanswered (hs := fun _ => []) rfl (fun m => by simp) (fun _ => rfl) (fun _ _ => rfl) (fun _ => rfl) (fun _ => rfl)
    (fun _ => rfl) rfl (fun _ => by simp) (fun _ _ => by simp) fun _ _ => by simp)

theorem modOpen (f : OpenSession → OpenSession) (hf : ∀ o, (f o).tags = o.tags := by intro; rfl) : s.Orderly (x.modOpen n f) := by
  refine h.trans (.of_unanswered (hs := fun _ => []) rfl (fun m => by simp) (fun _ => rfl) (fun _ _ => rfl)
    (fun m => isOpen_modOpen x m n f) (fun m => ?_) (fun _ => rfl) rfl (fun _ => rfl) (fun _ _ => rfl) fun _ _ => rfl)
  by_cases hm : m = n
  · subst hm
    rw [tags_modOpen_self]
    simp only [hf]
    rfl
  · simp [tags, State.modOpen, modSession_session_of_ne x _ hm]

theorem arbitrate : s.Orderly (x.arbitrate l) := by
  obtain ⟨hmute, hresp, hnotice, -⟩ := x.arbitrate_spec l
  exact h.trans (.of_unanswered (hs := fun _ => []) hmute (fun m => by simp [hresp]) hnotice (fun _ _ => rfl) (fun _ => rfl)
    (fun _ => rfl) (fun _ => rfl) rfl (fun _ => rfl) (fun _ _ => rfl) fun _ _ => rfl)

theorem queueNotice (b : NoticeBody) : s.Orderly (x.queueNotice n b) := by
  obtain ⟨hmute, hresp, hnotice, -⟩ := x.queueNotice_spec n b
  refine h.trans (.of_unanswered (hs := fun m => if m = n ∧ x.isOpen n then [b] else []) hmute (fun m => by simp [hresp]) (fun m => ?_)
    (fun m ho => ?_) (fun _ => rfl) (fun _ => rfl) (fun _ => rfl) rfl (fun _ => rfl) (fun _ _ => rfl) fun _ _ => rfl)
  · unfold heard
    rw [hnotice m]
    by_cases hm : m = n ∧ x.isOpen n = true
    · simp [hm]
    · simp [hm]
  · rw [if_neg]
    rintro ⟨rfl, hopen⟩
    simp [hopen] at ho

theorem linkFault : s.Orderly (x.linkFault l) := h.queueNotice l _

theorem notifyState : s.Orderly (x.notifyState t) := by
  have d := x.notifyState_does t
  refine h.trans (.of_unanswered d.mute d.sends.answered d.sends.heard (fun n ho => ?_) (fun _ => rfl) (fun _ => rfl)
    (fun _ => rfl) rfl (fun _ => rfl) (fun _ _ => rfl) fun _ _ => rfl)
  rw [toWatchers, if_neg]
  intro hw
  simp [isOpen_of_watches hw] at ho

/-- An immediate response is placed only where at most 3 wait, so a window that admits a request still does. -/
theorem respondNow (r : Response) : s.Orderly (x.respondNow l r) := by
  refine h.trans ?_
  by_cases hroom : (x.link l).respQ.length ≤ 3
  · rw [respondNow_placed x l hroom]
    obtain ⟨hmute, hresp, hnotice, -⟩ := x.place_spec l (if x.isOpen l then .session else .none) r
    set y := x.place l (if x.isOpen l then .session else .none) r
    obtain ⟨hsess, hrec, -, -, -, hlinks⟩ := parts_of_mute hmute
    have hopen (n : Index) : y.isOpen n = x.isOpen n := isOpen_congr hsess n
    have htags (n : Index) : y.tags n = x.tags n := tags_congr hsess n
    have hout (n : Index) : y.outstanding n = x.outstanding n := congrArg List.length (htags n)
    have howed (n : Index) : y.owed n = x.owed n := by simp only [State.owed, rc_of_mute hmute, acc_of_mute hmute]
    have hplaces (n : Index) : (y.link n).respQ.length = (x.link n).respQ.length ∨ (y.link n).respQ.length ≤ 4 := by
      rw [hresp n]
      by_cases hn : n = l
      · subst hn; simp; omega
      · simp [hn]
    have hspare (n : Index) (ha : x.windowOpen n = true) : y.windowOpen n = true := by
      rw [windowOpen_iff, hout] at *
      have := hplaces n
      omega
    refine ⟨⟨hopen, fun n => congrArg (·.routed) (hlinks n), fun n hq => hq.of_contents (hnotice n), fun n _ hq => ?_,
      banksKept_congr hrec (bank_of_mute hmute)⟩, fun n e _ hw => ?_, fun n _ _ ha => hspare n ha, fun n => ?_, fun n _ hp => ?_,
      fun t n => ?_, fun t n => ?_⟩
    · rw [← NoticeQueue.contents_nil_iff, hnotice n, NoticeQueue.contents_nil_iff, hq]
    · obtain ⟨hperm, hnodup, h4, h8, hr⟩ := hw
      refine ⟨by rwa [htags, howed], by rwa [htags], by rwa [hout], ?_, fun q hq => ?_⟩
      · have := hplaces n
        rw [hout]
        omega
      · have hq' : q ∈ (x.link n).routed := congrArg (·.routed) (hlinks n) ▸ hq
        obtain ⟨hin, hpass⟩ := hr q hq'
        refine ⟨hin, fun ho => ?_⟩
        obtain ⟨htag, hk⟩ := hpass ((hopen n).symm.trans ho)
        exact ⟨by rwa [htags], fun hkind => hspare n (hk hkind)⟩
    · rw [htags]; exact List.Subset.refl _
    · have := hplaces n
      omega
    · rw [rc_of_mute hmute]; exact List.Subset.refl _
    · rw [acc_of_mute hmute]; exact List.Subset.refl _
  · rw [respondNow_discarded x l (by omega)]
    exact (Orderly.refl x).linkFault l

theorem respondPlain (tag kind : Byte) (st : Status) : s.Orderly (x.respondPlain l tag kind st) := h.respondNow l _

/-! ### The port -/

theorem hand (m : PortMsg) : s.Orderly (x.hand t m) := h.modPort t _

theorem handRc (m : RcMsg) : s.Orderly (x.handRc t m) := (h.modPort t _).hand t _

theorem clearOutstanding : s.Orderly (x.clearOutstanding t) := h.modPort t _

theorem cancelService : s.Orderly (x.cancelService t) := (h.clearOutstanding t).hand t _

theorem sendWatch : s.Orderly (x.sendWatch t) := (h.hand t _).modPort t _

theorem watchChanged : s.Orderly (x.watchChanged t) := by
  rw [watchChanged_eq]
  unfold watchSent
  split
  · exact h
  · exact h.modPort t _

theorem watchSince (before : State) : s.Orderly (x.watchSince before t) := by
  unfold State.watchSince
  split
  · exact h
  · exact h.watchChanged t

/-! ### Run control -/

theorem setRun (r : RunState) : s.Orderly (x.setRun t r) := (h.modRc t _).notifyState t

theorem setStopCause (c : StopCause) : s.Orderly (x.setStopCause t c) := h.modRc t _

theorem stop : s.Orderly (x.stop t) := (((h.handRc t _).setStopCause t _).modRc t _).setRun t _

theorem release : s.Orderly (x.release t) := by
  unfold State.release
  split
  · exact h.modRc t _
  · exact ((h.handRc t _).modRc t _).setRun t _

theorem afterHoldChange : s.Orderly (x.afterHoldChange t) := by
  unfold State.afterHoldChange
  split
  · split
    · exact (h.release t).notifyState t
    · exact h.release t
  · exact h.notifyState t


end Orderly

end Sys2Proof.Machine.State
end

section
/-! PROOF. The operations that give deferred answers are orderly: waiters, step sequences, resets, entries, claims and accesses. -/

namespace Sys2Proof.Machine.State

namespace Orderly

variable {s x : State}

/-! ### Answers that take what is owed with them -/

/-- What stays of a list and what is picked from it, seen through one more choice. -/
theorem perm_filter_split {α β : Type} (p q : α → Bool) (f : α → β) (as : List α) :
    ((as.filter q).map f).Perm (((as.filter fun a => !p a).filter q).map f ++ ((as.filter p).filter q).map f) := by
  rw [← List.map_append, ← List.filter_append]
  exact (((List.filter_append_perm p as).symm.trans List.perm_append_comm).filter q).map f

theorem tagsFor_waiters (m : Index) (st : Status) (hold : HoldSet) (ws : List Waiter) :
    tagsFor m (ws.map (waiterAnswer st hold)) = (ws.filter fun w => w.session == m).map (·.tag) := by
  simp [tagsFor, List.filter_map, Function.comp_def, waiterAnswer]

theorem subset_waiters (p : Waiter → Bool) (m : Index) (r : RunControl) :
    ({ r with waiters := r.waiters.filter p }).owed m ⊆ r.owed m := by
  unfold RunControl.owed
  refine List.append_subset.2 ⟨List.append_subset.2 ⟨?_, ?_⟩, ?_⟩
  · intro tag htag
    simp only [List.mem_append]
    exact .inl (.inl ((((List.filter_sublist).filter _).map _).subset htag))
  · intro tag htag
    simp only [List.mem_append]
    exact .inl (.inr htag)
  · intro tag htag
    simp only [List.mem_append]
    exact .inr htag

theorem answerWaiters (h : s.Orderly x) (t : Index) (p : Waiter → Bool) (st : Status) : s.Orderly (x.answerWaiters t p st) := by
  refine h.trans (.of_does (x.answerWaiters_does t p st) t (fun _ _ => rfl) rfl (by simp) (by simp) (fun u => by simp)
    (fun u hu => ?_) (fun m => ?_) (fun m => ?_) fun m => by simp)
  · rw [modRc_rc_of_ne _ _ hu]; simp
  · have hsplit := perm_filter_split p (fun w => w.session == m) (·.tag) (x.rc t).waiters
    rw [tagsFor_waiters]
    simp only [modRc_rc_self, modRc_acc, leaves_rc, leaves_acc, RunControl.owed, List.append_assoc]
    rw [List.perm_iff_count] at hsplit ⊢
    intro tag
    have := hsplit tag
    simp only [List.count_append] at this ⊢
    omega
  · simp only [modRc_rc_self, leaves_rc]
    exact subset_waiters _ m (x.rc t)

theorem answerAll (h : s.Orderly x) (t : Index) (st : Status) : s.Orderly (x.answerAll t st) := h.answerWaiters t _ st

theorem answerResumes (h : s.Orderly x) (t : Index) : s.Orderly (x.answerResumes t) := h.answerWaiters t _ _

theorem answerHalts (h : s.Orderly x) (t : Index) : s.Orderly (x.answerHalts t) := h.answerWaiters t _ _

theorem abortHalts (h : s.Orderly x) (t : Index) (p : Index → Bool) : s.Orderly (x.abortHalts t p) := h.answerWaiters t _ _

theorem tagsFor_seqAnswer (m : Index) (r : RunControl) (q : StepSeq) (st : Status) :
    tagsFor m (seqAnswer r q st) = if q.session == m && !q.discard then [q.tag] else [] := by
  unfold seqAnswer tagsFor
  cases q.discard <;> by_cases hs : q.session = m <;> simp [hs]

theorem tagsFor_resetAnswer (m : Index) (q : ResetRec) (st : Status) (payload : List Byte) :
    tagsFor m (resetAnswer q st payload) = if q.session == m && !q.discard then [q.tag] else [] := by
  unfold resetAnswer tagsFor
  cases q.discard <;> by_cases hs : q.session = m <;> simp [hs]

theorem failSeq (h : s.Orderly x) (t : Index) (st : Status) : s.Orderly (x.failSeq t st) := by
  refine h.trans (.of_does (x.failSeq_does t st) t (fun _ _ => rfl) rfl (by simp) (by simp) (fun u => by simp)
    (fun u hu => ?_) (fun m => ?_) (fun m => ?_) fun m => by simp)
  · rw [modRc_rc_of_ne _ _ hu]; simp
  · simp only [modRc_rc_self, modRc_acc, leaves_rc, leaves_acc, RunControl.owed]
    cases (x.rc t).stepSeq with
    | none => simp
    | some q =>
      simp only [Option.map_some, Option.getD_some, tagsFor_seqAnswer, Option.toList_some, Option.toList_none, List.filter_cons,
        List.filter_nil]
      rw [List.perm_iff_count]
      intro tag
      split <;> simp only [List.map_cons, List.map_nil, List.count_append, List.count_nil] <;> omega
  · simp only [modRc_rc_self, leaves_rc, RunControl.owed]
    intro tag htag
    simp only [List.mem_append, Option.toList_none, List.filter_nil, List.map_nil, List.append_nil] at htag ⊢
    tauto

theorem endReset (h : s.Orderly x) (t : Index) (st : Status) (payload : List Byte) : s.Orderly (x.endReset t st payload) := by
  refine h.trans (.of_does (x.endReset_does t st payload) t (fun _ _ => rfl) rfl (by simp) (by simp) (fun u => by simp)
    (fun u hu => ?_) (fun m => ?_) (fun m => ?_) fun m => by simp)
  · rw [modRc_rc_of_ne _ _ hu]; simp
  · simp only [modRc_rc_self, modRc_acc, leaves_rc, leaves_acc, RunControl.owed]
    cases (x.rc t).resetRec with
    | none => simp
    | some q =>
      simp only [Option.map_some, Option.getD_some, tagsFor_resetAnswer, Option.toList_some, Option.toList_none, List.filter_cons,
        List.filter_nil]
      rw [List.perm_iff_count]
      intro tag
      split <;> simp only [List.map_cons, List.map_nil, List.count_append, List.count_nil] <;> omega
  · simp only [modRc_rc_self, leaves_rc, RunControl.owed]
    intro tag htag
    simp only [List.mem_append, Option.toList_none, List.filter_nil, List.map_nil, List.append_nil] at htag ⊢
    tauto

/-- The response of a sequence whose record then goes is the failing of the sequence with that status. -/
theorem respondStep_eq {t : Index} {q q' : StepSeq} (hq : (x.rc t).stepSeq = some q)
    (hsame : q'.session = q.session ∧ q'.tag = q.tag ∧ q'.discard = q.discard ∧ q'.done = q.done) (st : Status) :
    (x.respondStep t q' st).modRc t (fun r => { r with stepSeq := none }) = x.failSeq t st := by
  obtain ⟨hs, ht, hd, hn⟩ := hsame
  unfold State.failSeq
  simp only [hq, respondStep, hs, ht, hd, hn]

/-! ### Entries, ends and claims -/

theorem enterHalted (h : s.Orderly x) (t : Index) (c : HaltCause) : s.Orderly (x.enterHalted t c) := by
  unfold State.enterHalted
  split
  · exact (((h.modRc t _).answerHalts t).notifyState t).release t
  · exact ((h.modRc t _).answerAll t _).notifyState t

theorem enterRunning (h : s.Orderly x) (t : Index) : s.Orderly (x.enterRunning t) :=
  ((h.modRc t _).answerResumes t).notifyState t

theorem exitHold (h : s.Orderly x) (t : Index) : s.Orderly (x.exitHold t) := (h.handRc t _).setRun t _

/-- A change of the step sequence record that leaves its request as it is. -/
theorem modSeq (h : s.Orderly x) (t : Index) (f : StepSeq → StepSeq)
    (hf : ∀ q, (f q).session = q.session ∧ (f q).tag = q.tag ∧ (f q).discard = q.discard := by exact fun _ => ⟨rfl, rfl, rfl⟩) :
    s.Orderly (x.modSeq t f) := by
  refine h.modRc t _ fun m => ?_
  unfold RunControl.owed
  cases (x.rc t).stepSeq with
  | none => rfl
  | some q =>
    obtain ⟨hs, ht, hd⟩ := hf q
    simp only [Option.map_some, Option.toList_some, List.filter_cons, List.filter_nil, hs, hd]
    split <;> simp [ht]

theorem interruptSeq (h : s.Orderly x) (t : Index) (k : Option Handle) : s.Orderly (x.interruptSeq t k) := h.modSeq t _

theorem endSeq (h : s.Orderly x) (t : Index) (selfAdded : Bool) : s.Orderly (x.endSeq t selfAdded) := by
  unfold State.endSeq
  split
  · exact h
  · rename_i q hq
    simp only
    rw [respondStep_eq hq ⟨rfl, rfl, rfl, rfl⟩]
    exact (h.failSeq t _).enterHalted t _

theorem sendStep (h : s.Orderly x) (t : Index) : s.Orderly (x.sendStep t) := (h.handRc t _).modSeq t _

theorem claim (h : s.Orderly x) (t n : Index) (c : StopCause) : s.Orderly (x.claim t n c) := by
  have hjoin := h.modRc t fun r => { r with hold := r.hold.add n }
  unfold State.claim
  split
  · exact (hjoin.setStopCause t c).stop t
  · exact hjoin.setStopCause t c
  · exact hjoin.setStopCause t c
  · exact ((hjoin.setStopCause t c).cancelService t).stop t
  · simp only
    split
    · exact hjoin.setStopCause t c
    · exact (hjoin.setStopCause t c).exitHold t
  · exact hjoin.interruptSeq t _
  · simp only
    split
    · exact hjoin
    · exact hjoin.notifyState t
  · exact hjoin
  · exact hjoin
  · exact hjoin

theorem enterUnresponsive (h : s.Orderly x) (t : Index) : s.Orderly (x.enterUnresponsive t) :=
  ((((h.endReset t _ _).answerAll t _).failSeq t _).modRc t _).setRun t _

theorem accessReport (h : s.Orderly x) (t : Index) : s.Orderly (x.accessReport t) := by
  unfold State.accessReport
  simp only
  split
  · split
    · exact (h.modRc t _).release t
    · exact (h.modRc t _).answerResumes t
  · split
    · split
      · exact h
      · split
        · exact h.sendStep t
        · exact h.endSeq t false
    · exact h

/-! ### Accesses -/

theorem tagsFor_accessAnswer (m : Index) (e : AccEntry) (st : Status) (payload : List Byte) :
    tagsFor m (accessAnswer e st payload) = if e.session == m && !e.discard then [e.tag] else [] := by
  unfold accessAnswer tagsFor
  cases e.discard <;> by_cases hs : e.session = m <;> simp [hs]

/-- The head of a queue owes its tag, unless it is marked for discard. -/
theorem owed_of_head {a : AccessEngine} {e : AccEntry} {rest : List AccEntry} (hq : a.queue = e :: rest) (m : Index) (st : Status)
    (payload : List Byte) : a.owed m = tagsFor m (accessAnswer e st payload) ++ ({ a with queue := rest } : AccessEngine).owed m := by
  rw [tagsFor_accessAnswer]
  simp only [AccessEngine.owed, hq, List.filter_cons]
  split <;> simp

theorem failHead (h : s.Orderly x) (t : Index) (st : Status) : s.Orderly (x.failHead t st) := by
  cases hq : (x.acc t).queue with
  | nil => rwa [failHead_of_empty x t hq]
  | cons e rest =>
    refine h.trans (.of_does (x.failHead_does t hq st) t (fun _ _ => rfl) rfl (by simp) (by simp) (fun u => by simp)
      (fun u hu => ?_) (fun m => ?_) (fun m => by simp) fun m => ?_)
    · rw [modAcc_acc_of_ne _ _ hu]; simp
    · simp only [modAcc_rc, modAcc_acc_self, leaves_rc, leaves_acc]
      rw [owed_of_head hq m st []]
      rw [List.perm_iff_count]
      intro tag
      simp only [List.count_append]
      omega
    · simp only [modAcc_acc_self, leaves_acc]
      rw [owed_of_head hq m st []]
      exact List.subset_append_right _ _

theorem handAcc (h : s.Orderly x) (t : Index) (op : AccOp) (ph : Phase) (e : AccEntry) : s.Orderly (x.handAcc t op ph e) := by
  unfold State.handAcc
  exact ((h.modPort t _).modAcc t _).hand t _

/-- The head replaced by an entry for the same request. -/
theorem setHead (h : s.Orderly x) (t : Index) {e e' : AccEntry} {rest : List AccEntry} (hq : (x.acc t).queue = e :: rest)
    (hsame : e'.session = e.session ∧ e'.tag = e.tag ∧ e'.discard = e.discard) : s.Orderly (x.setHead t e') := by
  obtain ⟨hs, ht, hd⟩ := hsame
  refine h.modAcc t _ fun m => ?_
  simp only [AccessEngine.owed, hq, List.tail_cons, List.filter_cons, hs, hd]
  split <;> simp [ht]

theorem startHead (h : s.Orderly x) (t : Index) : s.Orderly (x.startHead t) := by
  unfold State.startHead
  split
  · exact h
  · rename_i e rest hq
    exact (h.setHead t (e' := { e with inFlight := true }) hq ⟨rfl, rfl, rfl⟩).handAcc t _ _ _

theorem beginService (h : s.Orderly x) (t : Index) : s.Orderly (x.beginService t) := (h.handRc t _).setRun t _

theorem exitResume (h : s.Orderly x) (t : Index) : s.Orderly (x.exitResume t) := (h.hand t _).enterRunning t

theorem examineFor (k : Nat) : ∀ {x : State}, s.Orderly x → ∀ t, s.Orderly (x.examineFor k t) := by
  induction k with
  | zero => exact fun h _ => h
  | succ k ih =>
    intro x h t
    unfold State.examineFor
    split
    · exact h
    · exact ih (h.failHead t _) t
    · exact h.startHead t
    · exact h.beginService t
    · exact h.exitHold t
    · exact ih (h.exitResume t) t

theorem examine (h : s.Orderly x) (t : Index) : s.Orderly (x.examine t) := examineFor _ h t

theorem examineSince (h : s.Orderly x) (before : State) (t : Index) : s.Orderly (x.examineSince before t) := by
  unfold State.examineSince
  split
  · exact h
  · exact h.examine t

theorem endAccess (h : s.Orderly x) (t : Index) (st : Status) (payload : List Byte) : s.Orderly (x.endAccess t st payload) := by
  cases hq : (x.acc t).queue with
  | nil => simpa [State.endAccess, hq] using h
  | cons e rest =>
    have howed (m : Index) : (((x.accessEnded t e st payload).acc t).owed m) = ({ (x.acc t) with queue := rest }).owed m := by
      simp [accessEnded, AccessEngine.owed, hq]
    refine h.trans (.of_does (x.endAccess_does t hq st payload) t (fun _ _ => rfl) rfl (by simp [accessEnded]) (by simp [accessEnded])
      (fun u => by simp [accessEnded]) (fun u hu => ?_) (fun m => ?_) (fun m => by simp [accessEnded]) fun m => ?_)
    · simp [accessEnded, modAcc_acc_of_ne _ _ hu]
    · rw [howed, owed_of_head hq m st payload, List.perm_iff_count]
      intro tag
      simp only [accessEnded, modAcc_rc, leaves_rc, List.count_append]
      omega
    · rw [howed, owed_of_head hq m st payload]
      exact List.subset_append_right _ _

theorem endByReply (h : s.Orderly x) (t : Index) (st : Status) (payload : List Byte) : s.Orderly (x.endByReply t st payload) :=
  ((h.endAccess t st payload).accessReport t).examine t

theorem failInFlight (h : s.Orderly x) (t : Index) (st : Status) : s.Orderly (x.failInFlight t st) := by
  unfold State.failInFlight
  split
  · exact (h.modAcc t _).failHead t st
  · exact h

end Orderly

/-! ### Every access fails at a detach -/

/-- Answers one after another to the entries of a list. -/
theorem foldl_respondAccess (s : State) (st : Status) (es : List AccEntry) :
    s.Does (es.foldl (fun s' e => s'.respondAccess e st []) s) (s.leaves (es.map fun e => accessAnswer e st []).flatten)
      (es.map fun e => accessAnswer e st []).flatten fun _ => [] := by
  induction es generalizing s with
  | nil => exact Does.silent rfl rfl
  | cons e es ih =>
    have h1 := s.respondAccess_does e st []
    refine (h1.then (ih (s.respondAccess e st [])) fun n => isOpen_leaves s n _).congr ?_ rfl fun _ => rfl
    rw [leaves_of_mute h1.mute, ← leaves_append]
    rfl

/-- Every entry of the queue is answered, in order, and the queue is empty (R94). -/
theorem failAllAccesses_does (s : State) (t : Index) (st : Status) :
    s.Does (s.failAllAccesses t st)
      ((s.leaves ((s.acc t).queue.map fun e => accessAnswer e st []).flatten).modAcc t fun a => { a with queue := [], exchange := none })
      ((s.acc t).queue.map fun e => accessAnswer e st []).flatten fun _ => [] :=
  ((foldl_respondAccess (s.modAcc t fun a => { a with queue := [], exchange := none }) st (s.acc t).queue).after (s := s) rfl rfl
    fun _ => rfl).congr (by rw [leaves_modAcc]) rfl fun _ => rfl

namespace Orderly

variable {s x : State}

theorem tagsFor_accessAnswers (m : Index) (st : Status) (es : List AccEntry) :
    tagsFor m (es.map fun e => accessAnswer e st []).flatten = (es.filter fun e => e.session == m && !e.discard).map (·.tag) := by
  induction es with
  | nil => rfl
  | cons e es ih =>
    rw [List.map_cons, List.flatten_cons, tagsFor_append, ih, tagsFor_accessAnswer, List.filter_cons]
    split <;> simp

theorem failAllAccesses (h : s.Orderly x) (t : Index) (st : Status) : s.Orderly (x.failAllAccesses t st) := by
  refine h.trans (.of_does (x.failAllAccesses_does t st) t (fun _ _ => rfl) rfl (by simp) (by simp) (fun u => by simp)
    (fun u hu => ?_) (fun m => ?_) (fun m => by simp) fun m => ?_)
  · rw [modAcc_acc_of_ne _ _ hu]; simp
  · rw [tagsFor_accessAnswers]
    simp [AccessEngine.owed]
  · simp [AccessEngine.owed]

end Orderly

end Sys2Proof.Machine.State
end

section
/-! PROOF. Records, fires and the events of a target are orderly. -/

namespace Sys2Proof.Machine

/-! ### The table and the banks (R39, R40, R42, R44) -/

theorem mem_updateRecord {h : Handle} {f : Record → Record} {y : Record} {rs : List Record} (hy : y ∈ updateRecord h f rs) :
    y ∈ rs ∨ ∃ z ∈ rs, z.handle = h ∧ y = f z := by
  induction rs with
  | nil => simp [updateRecord] at hy
  | cons z zs ih =>
    unfold updateRecord at hy
    split at hy
    · rename_i hz
      rcases List.mem_cons.1 hy with rfl | hy
      · exact .inr ⟨z, by simp, hz, rfl⟩
      · exact .inl (List.mem_cons_of_mem _ hy)
    · rcases List.mem_cons.1 hy with rfl | hy
      · exact .inl (by simp)
      · rcases ih hy with hmem | ⟨w, hw, heq⟩
        · exact .inl (List.mem_cons_of_mem _ hmem)
        · exact .inr ⟨w, List.mem_cons_of_mem _ hw, heq⟩

/-- An update that `g` does not see. -/
theorem map_updateRecord {β : Type} {f : Record → Record} (g : Record → β) (hg : ∀ x, g (f x) = g x) (h : Handle) (rs : List Record) :
    (updateRecord h f rs).map g = rs.map g := by
  induction rs with
  | nil => rfl
  | cons y ys ih => unfold updateRecord; split <;> simp [hg, ih]

namespace State

/-- What a subscriber list says of a record: its handle and the comparator it is bound to. -/
def binding (x : Record) : Handle × Index × Index := (x.handle, x.target, x.comparator)

theorem exists_binding {rs : List Record} {h : Handle} {t c : Index} :
    (∃ x ∈ rs, x.handle = h ∧ x.target = t ∧ x.comparator = c) ↔ (h, t, c) ∈ rs.map binding := by
  simp [binding]

/-- A change of one record's counts leaves table and banks in agreement. -/
theorem banksKept_modRecord {s : State} {h : Handle} {f : Record → Record} (hk : s.banksKept) (hbind : ∀ x, binding (f x) = binding x)
    (hf : ∀ x ∈ s.records, x.handle = h → x.remaining ≤ x.passes →
      (f x).remaining ≤ (f x).passes ∧ (f x).spec = x.spec) : (s.modRecord h f).banksKept := by
  obtain ⟨hpair, hrec, hbank⟩ := hk
  have hmap : (s.modRecord h f).records.map binding = s.records.map binding := map_updateRecord binding hbind h s.records
  refine ⟨?_, fun x hx => ?_, fun t c => ?_⟩
  · have hh : (s.modRecord h f).records.map (·.handle) = s.records.map (·.handle) :=
      map_updateRecord (·.handle) (fun x => congrArg Prod.fst (hbind x)) h s.records
    have := (List.pairwise_map (f := fun x : Record => x.handle) (R := (· < ·))).2 hpair
    rw [← hh] at this
    exact List.pairwise_map.1 this
  · rcases mem_updateRecord hx with hx | ⟨z, hz, hzh, rfl⟩
    · exact hrec x hx
    · obtain ⟨hle, hspec, hcond⟩ := hrec z hz
      obtain ⟨hle', hsame⟩ := hf z hz hzh hle
      have hb := hbind z
      simp only [binding, Prod.mk.injEq] at hb
      obtain ⟨-, ht, hc⟩ := hb
      have hkind : (f z).kind = z.kind := congrArg MatchSpec.kind hsame
      have hcond' : (f z).cond = z.cond := congrArg MatchSpec.cond hsame
      refine ⟨hle', ?_, ?_⟩
      · rw [ht, hc, hsame]
        exact hspec
      · rw [hcond', hkind, hc]
        exact hcond
  · obtain ⟨hnodup, hbound, hmem, hdiff⟩ := hbank t c
    refine ⟨hnodup, hbound, fun g => ?_, hdiff⟩
    rw [exists_binding, hmap, ← exists_binding]
    exact hmem g

/-- Two records of one handle are one. -/
theorem record_unique {s : State} (hk : s.banksKept) {x y : Record} (hx : x ∈ s.records) (hy : y ∈ s.records) (hh : x.handle = y.handle) :
    x = y := by
  have hnodup : (s.records.map (·.handle)).Nodup := List.pairwise_map.2 (hk.1.imp fun hlt => ne_of_lt hlt)
  exact List.inj_on_of_nodup_map hnodup hx hy hh

/-- Deletion leaves table and banks in agreement (R44). -/
theorem banksKept_dropRecords {s : State} (hk : s.banksKept) (gone : Record → Bool) : (s.dropRecords gone).banksKept := by
  have hunique {x y : Record} := record_unique hk (x := x) (y := y)
  obtain ⟨hpair, hrec, hbank⟩ := hk
  set dead := fun h => s.records.any fun r => r.handle == h && gone r with hdead
  have hlive {x : Record} (hx : x ∈ s.records) : dead x.handle = gone x := by
    rw [Bool.eq_iff_iff]
    simp only [hdead, List.any_eq_true, Bool.and_eq_true, beq_iff_eq]
    exact ⟨fun ⟨r, hr, hh, hg⟩ => hunique hr hx hh ▸ hg, fun hg => ⟨x, hx, rfl, hg⟩⟩
  have hsubs (t c : Index) : (((s.dropRecords gone).bank t).get c).subs = ((s.bank t).get c).subs.filter fun h => !dead h := by
    rw [bank_dropRecords]
    unfold Comparator.drop
    simp only
    split
    · rename_i he
      exact (List.isEmpty_iff.1 he).symm
    · rfl
  have hspec (t c : Index) : (((s.dropRecords gone).bank t).get c).spec =
      if (((s.dropRecords gone).bank t).get c).subs = [] then none else ((s.bank t).get c).spec := by
    rw [hsubs, bank_dropRecords]
    unfold Comparator.drop
    simp only [List.isEmpty_iff]
    split <;> rfl
  have hmem' (t c : Index) (h : Handle) : h ∈ (((s.dropRecords gone).bank t).get c).subs ↔
      ∃ x ∈ (s.dropRecords gone).records, x.handle = h ∧ x.target = t ∧ x.comparator = c := by
    rw [hsubs]
    simp only [List.mem_filter, (hbank t c).2.2.1, Bool.not_eq_true', dropRecords]
    constructor
    · rintro ⟨⟨x, hx, rfl, ht, hc⟩, hd⟩
      exact ⟨x, ⟨hx, by rwa [hlive hx] at hd⟩, rfl, ht, hc⟩
    · rintro ⟨x, ⟨hx, hg⟩, rfl, ht, hc⟩
      exact ⟨⟨x, hx, rfl, ht, hc⟩, by rwa [hlive hx]⟩
  refine ⟨hpair.filter _, fun x hx => ?_, fun t c => ⟨?_, ?_, hmem' t c, fun d hd => ?_⟩⟩
  · have hx' : x ∈ s.records := (List.mem_filter.1 hx).1
    obtain ⟨hle, hsp, hcond⟩ := hrec x hx'
    refine ⟨hle, ?_, hcond⟩
    have hne : (((s.dropRecords gone).bank x.target).get x.comparator).subs ≠ [] :=
      List.ne_nil_of_mem ((hmem' x.target x.comparator x.handle).2 ⟨x, hx, rfl, rfl, rfl⟩)
    rw [hspec, if_neg hne]
    exact hsp
  · rw [hsubs]
    exact (hbank t c).1.filter _
  · rw [hspec]
    by_cases he : (((s.dropRecords gone).bank t).get c).subs = []
    · simp [he]
    · rw [if_neg he]
      simp only [he, not_false_eq_true, ne_eq, iff_true]
      refine (hbank t c).2.1.2 fun h => he ?_
      rw [hsubs, h]
      rfl
  · rw [hspec t c, hspec t d]
    have hold := (hbank t c).2.2.2 d hd
    by_cases hc : (((s.dropRecords gone).bank t).get c).subs = []
    · simp [hc]
    · rw [if_neg hc]
      intro hsome
      by_cases hd' : (((s.dropRecords gone).bank t).get d).subs = []
      · rw [if_pos hd']
        exact Option.isSome_iff_ne_none.1 hsome
      · rw [if_neg hd']
        exact hold hsome

/-- A change of the table and the banks alone that keeps them in agreement. -/
theorem Orderly.of_table {s s' : State} (hl : s'.links = s.links) (hn : s'.notices = s.notices) (hs : s'.sessions = s.sessions)
    (hrc : ∀ t, s'.rc t = s.rc t) (hacc : ∀ t, s'.acc t = s.acc t) (hb : s.banksKept → s'.banksKept) : s.Orderly s' := by
  have hlink (n : Index) : s'.link n = s.link n := congrArg (·.get n) hl
  have hnotice (n : Index) : s'.notice n = s.notice n := congrArg (·.get n) hn
  have howed (n : Index) : s'.owed n = s.owed n := by simp only [State.owed, hrc, hacc]
  have hout (n : Index) : s'.outstanding n = s.outstanding n := congrArg List.length (tags_congr hs n)
  have hwindow (n : Index) : s'.windowOpen n = s.windowOpen n := by
    rw [Bool.eq_iff_iff, windowOpen_iff, windowOpen_iff, hout, hlink]
  refine ⟨⟨isOpen_congr hs, fun n => by rw [hlink], fun n h => by rwa [hnotice], fun n _ h => by rwa [hnotice], hb⟩,
    fun n e _ h => ?_, fun n _ _ h => (hwindow n).trans h, fun n => ?_, fun n _ h => by rwa [hlink], fun t n => ?_, fun t n => ?_⟩
  · unfold State.windowOf at h ⊢
    simpa only [tags_congr hs, howed, hout, hlink, isOpen_congr hs, hwindow] using h
  · rw [tags_congr hs]; exact List.Subset.refl _
  · rw [hrc]; exact List.Subset.refl _
  · rw [hacc]; exact List.Subset.refl _

namespace Orderly

variable {s x : State} (h : s.Orderly x)

include h

theorem modRecord (k : Handle) (f : Record → Record) (hbind : ∀ r, binding (f r) = binding r)
    (hf : ∀ r ∈ x.records, r.handle = k → r.remaining ≤ r.passes → (f r).remaining ≤ (f r).passes ∧ (f r).spec = r.spec) :
    s.Orderly (x.modRecord k f) :=
  h.trans (.of_table rfl rfl rfl (fun _ => rfl) (fun _ => rfl) fun hb => banksKept_modRecord hb hbind hf)

theorem dropRecords (gone : Record → Bool) : s.Orderly (x.dropRecords gone) :=
  h.trans (.of_table rfl rfl rfl (fun _ => by simp) (fun _ => by simp) fun hb => banksKept_dropRecords hb gone)

theorem dropRecord (k : Handle) : s.Orderly (x.dropRecord k) := h.dropRecords _

theorem applyAction (r : Record) : s.Orderly (x.applyAction r) := by
  unfold State.applyAction
  split
  · exact h
  · split
    · exact h.claim _ _ _
    · exact h.hand _ _
    · exact h

theorem applyPersistence (r : Record) : s.Orderly (x.applyPersistence r) := by
  unfold State.applyPersistence
  split
  · exact h.modRecord _ _ (fun _ => rfl) fun y _ _ _ => ⟨BitVec.le_refl _, rfl⟩
  · exact h.dropRecord _

theorem fire (ref : RefReport) (r : Record) : s.Orderly (x.fire ref r) := by
  have hhits := h.modRecord r.handle (fun y => { y with hits := nextHits r.hits }) (fun _ => rfl) fun _ _ _ hle => ⟨hle, rfl⟩
  exact ((hhits.queueNotice r.owner _).applyAction r).applyPersistence r

theorem takeRecord (ref : RefReport) (k : Handle) : s.Orderly (x.takeRecord ref k) := by
  cases hr : x.record? k with
  | none => rwa [takeRecord_of_none ref hr]
  | some r =>
    by_cases hp : r.remaining = 0
    · rw [takeRecord_of_due ref hr hp]
      exact h.fire ref r
    · refine h.trans (.of_table ?_ ?_ ?_ ?_ ?_ fun hb => ?_)
      all_goals rw [takeRecord_of_passing ref hr hp]
      all_goals try intro
      all_goals try rfl
      obtain ⟨hmem, hhandle⟩ := x.record?_eq_some k hr
      refine banksKept_modRecord hb (fun _ => rfl) fun y hy hyh hle => ?_
      obtain rfl := record_unique hb hy hmem (hyh.trans hhandle.symm)
      refine ⟨?_, rfl⟩
      show y.remaining - 1 ≤ y.passes
      bv_omega

theorem takeRef (t : Index) (ref : RefReport) : s.Orderly (x.takeRef t ref) := by
  have hall (ks : List Handle) : ∀ y : State, s.Orderly y → s.Orderly (ks.foldl (State.takeRecord ref) y) := by
    induction ks with
    | nil => exact fun _ hy => hy
    | cons k ks ih => exact fun y hy => ih _ (hy.takeRecord ref k)
  unfold State.takeRef
  split
  · exact (hall _ x h).watchSince t x
  · exact h

/-! ### The ports and the targets' messages and timers -/

theorem attach (t : Index) : s.Orderly (x.attach t) := by
  unfold State.attach
  simp only
  split
  · exact (((h.hand t _).sendWatch t).handRc t _).modPort t _
  · exact ((h.sendWatch t).handRc t _).modPort t _

theorem idlePort (t : Index) (l : LinkState) : s.Orderly (x.idlePort t l) := h.modPort t _

theorem detach (t : Index) (l : LinkState) : s.Orderly (x.detach t l) :=
  ((((((h.idlePort t l).modRc t _).endReset t _ _).answerAll t _).failSeq t _).failAllAccesses t _).notifyState t

theorem loseTarget (t : Index) (l : LinkState) : s.Orderly (x.loseTarget t l) := by
  unfold State.loseTarget
  split
  · exact h.detach t l
  · exact h.idlePort t l
  · exact h.idlePort t l
  · exact h.idlePort t l

theorem rewatch (t : Index) : s.Orderly (x.rewatch t) := by
  unfold State.rewatch
  simp only
  split
  · exact (h.modPort t _).sendWatch t
  · exact h.modPort t _

theorem watchAtActive (t : Index) : s.Orderly (x.watchAtActive t) := by
  unfold State.watchAtActive
  split
  · exact h
  · exact h.sendWatch t

theorem watchAfterReport (before : State) (t : Index) : s.Orderly (x.watchAfterReport before t) := by
  have hs1 : s.Orderly (match before.outstandingMsg t with
      | some (.rstOff _) => (x.modPort t fun p => { p with watchEnable := false }).rewatch t
      | _ => if (before.port t).watchOwed then x.rewatch t else x) := by
    split
    · exact (h.modPort t _).rewatch t
    · split
      · exact h.rewatch t
      · exact h
  unfold State.watchAfterReport
  simp only
  split
  · exact hs1.watchAtActive t
  · exact hs1

theorem selfJoins (t : Index) : s.Orderly (x.selfJoins t) := h.modRc t _

theorem selfJoinsIfEmpty (t : Index) : s.Orderly (x.selfJoinsIfEmpty t) := by
  unfold State.selfJoinsIfEmpty
  split
  · exact h.selfJoins t
  · exact h

theorem setPc (t : Index) (pc : Addr) : s.Orderly (x.setPc t pc) := h.modRc t _

omit h in
/-- A choice between two orderly operations. -/
theorem choice {y : State} {c : Prop} [Decidable c] (hx : s.Orderly x) (hy : s.Orderly y) : s.Orderly (if c then x else y) := by
  split
  · exact hx
  · exact hy

/-- The step sequence record replaced by one for the same request. -/
theorem replaceSeq (t : Index) {q q' : StepSeq} (hq : (x.rc t).stepSeq = some q)
    (hsame : q'.session = q.session ∧ q'.tag = q.tag ∧ q'.discard = q.discard) :
    s.Orderly (x.modRc t fun r => { r with stepSeq := some q' }) := by
  obtain ⟨hs, ht, hd⟩ := hsame
  refine h.modRc t _ fun m => ?_
  simp only [RunControl.owed, hq, Option.toList_some, List.filter_cons, List.filter_nil, hs, hd]
  split <;> simp [ht]

theorem haltedInStepping (t : Index) (self step : Bool) (pc : Addr) : s.Orderly (x.haltedInStepping t self step pc) := by
  unfold State.haltedInStepping
  split
  · exact h.setPc t pc
  · rename_i q hq
    split
    · exact h.setPc t pc
    · have hq' : ((x.setPc t pc).rc t).stepSeq = some q := by simp [State.setPc, hq]
      have hseq (q1 : StepSeq) (hsame : q1.session = q.session ∧ q1.tag = q.tag ∧ q1.discard = q.discard) :=
        (h.setPc t pc).replaceSeq t hq' hsame
      have hjoin (q1 : StepSeq) (hsame : q1.session = q.session ∧ q1.tag = q.tag ∧ q1.discard = q.discard) :=
        choice (c := (self || !step) = true) ((hseq q1 hsame).selfJoins t) (hseq q1 hsame)
      refine choice (sendStep ?_ t) (endSeq ?_ t _) <;> exact hjoin _ ⟨rfl, rfl, rfl⟩

theorem haltedInReset (t : Index) (pc : Addr) : s.Orderly (x.haltedInReset t pc) := by
  unfold State.haltedInReset
  split
  · exact h
  · split
    · exact h
    · simp only
      split
      · exact ((h.setPc t pc).endReset t _ _).enterHalted t _
      · exact (((h.setPc t pc).selfJoins t).endReset t _ _).enterHalted t _

theorem haltedByRun (t : Index) (self step probing : Bool) (pc : Addr) : s.Orderly (x.haltedByRun t self step probing pc) := by
  unfold State.haltedByRun
  split
  · split
    · exact ((h.setPc t pc).selfJoinsIfEmpty t).enterHalted t _
    · exact h
  · exact ((h.setPc t pc).selfJoins t).enterHalted t _
  · simp only
    split
    · exact ((h.setPc t pc).selfJoins t).enterHalted t _
    · exact (h.setPc t pc).enterHalted t _
  · exact h.setPc t pc
  · exact ((h.setPc t pc).selfJoins t).enterHalted t _
  · exact h.haltedInStepping t self step pc
  · exact (((h.cancelService t).setPc t pc).selfJoins t).enterHalted t _
  · exact ((h.setPc t pc).selfJoins t).enterHalted t _
  · exact ((h.setPc t pc).selfJoinsIfEmpty t).enterHalted t _
  · exact h.haltedInReset t pc

theorem runOrStop (t : Index) : s.Orderly (x.runOrStop t) := by
  unfold State.runOrStop
  split
  · exact h.enterRunning t
  · exact h.stop t

theorem runningInStepping (t : Index) : s.Orderly (x.runningInStepping t) := by
  unfold State.runningInStepping
  split
  · exact h
  · rename_i q hq
    split
    · exact h
    · simp only
      rw [respondStep_eq (q' := { q with interrupted := true }) hq ⟨rfl, rfl, rfl, rfl⟩]
      exact (h.failSeq t _).runOrStop t

theorem runningInReset (t : Index) : s.Orderly (x.runningInReset t) := by
  unfold State.runningInReset
  split
  · exact h
  · split
    · exact h
    · exact (h.endReset t _ _).runOrStop t

theorem runningByRun (t : Index) (probing : Bool) : s.Orderly (x.runningByRun t probing) := by
  unfold State.runningByRun
  split
  · split
    · exact h.runOrStop t
    · exact h
  · exact h
  · exact h
  · exact (h.modRc t _).runOrStop t
  · split
    · exact h.enterRunning t
    · exact (h.answerResumes t).stop t
  · exact h.runningInStepping t
  · exact h
  · exact h
  · exact h.runOrStop t
  · exact h.runningInReset t

theorem takeReport (t : Index) (answers : RcMsg → Bool) (f : Bool → State → State)
    (hf : ∀ probing y, s.Orderly y → s.Orderly (f probing y)) : s.Orderly (x.takeReport t answers f) := by
  have hs1 : s.Orderly (match x.outstandingMsg t with
      | some m => if answers m then x.clearOutstanding t else x
      | none => x) := by
    split
    · split
      · exact h.clearOutstanding t
      · exact h
    · exact h
  have hs2 : s.Orderly (if ((x.port t).link == .probing) = true then
      (match x.outstandingMsg t with
        | some m => if answers m then x.clearOutstanding t else x
        | none => x).modPort t fun p => { p with link := .active }
      else match x.outstandingMsg t with
        | some m => if answers m then x.clearOutstanding t else x
        | none => x) := by
    split
    · exact hs1.modPort t _
    · exact hs1
  unfold State.takeReport
  simp only
  split
  · exact hs2
  · exact ((hf _ _ hs2).watchAfterReport x t).examineSince x t

theorem takeHalted (t : Index) (flags : Byte) (pc : Addr) : s.Orderly (x.takeHalted t flags pc) := by
  unfold State.takeHalted
  split
  · exact h.takeReport t _ _ fun _ _ hy => hy.haltedByRun t _ _ _ pc
  · exact h

theorem takeRunning (t : Index) : s.Orderly (x.takeRunning t) := by
  unfold State.takeRunning
  split
  · exact h.takeReport t _ _ fun _ _ hy => hy.runningByRun t _
  · exact h

theorem lateGrant (t : Index) : s.Orderly (x.lateGrant t) := by
  rw [lateGrant_eq]
  exact h.modPort t _

theorem takeGrant (t : Index) : s.Orderly (x.takeGrant t) := by
  unfold State.takeGrant
  split
  · split
    · exact (((h.clearOutstanding t).modAcc t _).setRun t _).examine t
    · exact h.lateGrant t
  · exact h

theorem replyByPhase (t : Index) {e : AccEntry} {rest : List AccEntry} (hq : (x.acc t).queue = e :: rest) (ph : Phase) (ok : Bool)
    (data : Word) : s.Orderly (x.replyByPhase t e ph ok data) := by
  unfold State.replyByPhase
  split
  · split <;> exact h.endByReply t _ _
  · split
    · have hset := h.setHead t (e' := { e with written := true }) hq ⟨rfl, rfl, rfl⟩
      simp only
      split
      · exact hset.handAcc t _ _ _
      · exact hset.endByReply t _ _
    · exact h.endByReply t _ _
  · simp only
    split <;> exact h.endByReply t _ _

theorem takeReply (t : Index) (number result : Byte) (data : Word) : s.Orderly (x.takeReply t number result data) := by
  unfold State.takeReply
  split
  · split
    · rename_i hq
      split
      · exact h.replyByPhase t hq _ _ data
      · exact h
    · exact h
  · exact h

theorem takeExchangeTimeout (t : Index) : s.Orderly (x.takeExchangeTimeout t) := by
  unfold State.takeExchangeTimeout
  split
  · simp only
    split
    · exact ((h.endAccess t _ _).enterUnresponsive t).examine t
    · exact (h.endAccess t _ _).examine t
  · exact h

theorem takeGrantTimeout (t : Index) : s.Orderly (x.takeGrantTimeout t) := by
  unfold State.takeGrantTimeout
  split
  · exact (((h.cancelService t).failHead t _).enterRunning t).examine t
  · exact h

theorem expireRc (t : Index) : s.Orderly (x.expireRc t) := (h.clearOutstanding t).enterUnresponsive t

theorem takeStopTimeout (t : Index) : s.Orderly (x.takeStopTimeout t) := by
  unfold State.takeStopTimeout
  split
  · exact (h.expireRc t).examine t
  · exact (h.expireRc t).examine t
  · exact (h.expireRc t).examine t
  · exact h

theorem takeRunTimeout (t : Index) : s.Orderly (x.takeRunTimeout t) := by
  unfold State.takeRunTimeout
  split
  · exact (h.expireRc t).examine t
  · exact (((h.expireRc t).modPort t _).watchAtActive t).examine t
  · exact ((h.expireRc t).modPort t _).examine t
  · exact h

theorem takeResetHold (t : Index) : s.Orderly (x.takeResetHold t) := by
  unfold State.takeResetHold
  split
  · rename_i q _ hq _
    refine (h.modRc t _ fun m => ?_).handRc t _
    simp only [RunControl.owed, hq, Option.toList_some, List.filter_cons, List.filter_nil]
    split <;> simp
  · exact h

theorem presentRises (t : Index) : s.Orderly (x.presentRises t) := by
  unfold State.presentRises
  split
  · exact h
  · simp only
    split
    · exact (h.modPort t _).attach t
    · exact h.modPort t _

theorem presentFalls (t : Index) : s.Orderly (x.presentFalls t) := by
  unfold State.presentFalls
  split
  · simp only
    split
    · exact h.modPort t _
    · exact (h.modPort t _).loseTarget t _
  · exact h

theorem arrives (m : Option InMsg) (f : State → State) (hf : s.Orderly (f x)) : s.Orderly (x.arrives m f) := by
  unfold State.arrives
  split
  · split
    · exact hf
    · exact h
  · exact h

theorem takeRefMsg (t : Index) (kind : Byte) (address : Addr) (data : Option Word) : s.Orderly (x.takeRefMsg t kind address data) := by
  unfold State.takeRefMsg
  split
  · split
    · exact h.takeRef t _
    · exact h
  · exact h

theorem slotBegins (t : Index) : s.Orderly (x.slotBegins t) := by
  unfold State.slotBegins
  split
  · exact h.modPort t _
  · exact h

end Orderly

end State

end Sys2Proof.Machine
end

section
/-! PROOF. The end of a session: every block is orderly for the sessions left, and empties what it holds of the session that ended. -/

namespace Sys2Proof.Machine

namespace State

/-! ### The end of a session (R123) -/

namespace Orderly

variable {s x : State}

/-- A response queue made no longer, the routed request as it was. -/
theorem shrinkLink (h : s.Orderly x) (l : Index) (f : LinkUnit → LinkUnit)
    (hrespQ : (f (x.link l)).respQ.length ≤ (x.link l).respQ.length) (hrouted : (f (x.link l)).routed = (x.link l).routed) :
    s.Orderly (x.modLink l f) := by
  have hq (n : Index) : ((x.modLink l f).link n).respQ.length ≤ (x.link n).respQ.length := by
    rw [modLink_link]
    split
    · rename_i hn; subst hn; exact hrespQ
    · exact le_refl _
  have hr (n : Index) : ((x.modLink l f).link n).routed = (x.link n).routed := by
    rw [modLink_link]
    split
    · rename_i hn; subst hn; exact hrouted
    · rfl
  have hspare (n : Index) (ha : x.windowOpen n = true) : (x.modLink l f).windowOpen n = true := by
    rw [windowOpen_iff] at *
    have := hq n
    exact ⟨ha.1, lt_of_le_of_lt (Nat.add_le_add_right this _) ha.2⟩
  refine h.trans ⟨⟨fun _ => rfl, hr, fun _ hq => hq, fun _ _ hq => hq, fun hb => hb⟩, fun n e _ hw => ?_, fun n _ _ ha => hspare n ha,
    fun _ => List.Subset.refl _, fun n _ hp => (hq n).trans hp, fun _ _ => List.Subset.refl _, fun _ _ => List.Subset.refl _⟩
  obtain ⟨hperm, hnodup, h4, h8, hpass⟩ := hw
  refine ⟨hperm, hnodup, h4, (Nat.add_le_add_right (hq n) _).trans h8, fun r hmem => ?_⟩
  rw [hr n] at hmem
  obtain ⟨hin, hout⟩ := hpass r hmem
  exact ⟨hin, fun ho => ⟨(hout ho).1, fun hk => hspare n ((hout ho).2 hk)⟩⟩

/-- A Notice Queue replaced by one in order, empty where it was. -/
theorem modNotice (h : s.Orderly x) (l : Index) (f : NoticeQueue → NoticeQueue) (hkept : (x.notice l).Kept → (f (x.notice l)).Kept)
    (hempty : (x.notice l).entries = [] → (f (x.notice l)).entries = []) : s.Orderly (x.modNotice l f) := by
  refine h.trans ⟨⟨fun _ => rfl, fun _ => rfl, fun n hq => ?_, fun n _ hq => ?_, fun hb => hb⟩, fun n e _ hw => hw, fun n e _ ha => ha,
    fun _ => List.Subset.refl _, fun n _ hp => hp, fun _ _ => List.Subset.refl _, fun _ _ => List.Subset.refl _⟩
  · rw [modNotice_notice]
    split
    · rename_i hn; subst hn; exact hkept hq
    · exact hq
  · rw [modNotice_notice]
    split
    · rename_i hn; subst hn; exact hempty hq
    · exact hq

/-- A change that takes from what a Run Control Unit owes a CLOSED session alone. -/
theorem modRcFor (h : s.Orderly x) {n : Index} (hn : x.isOpen n = false) (t : Index) (f : RunControl → RunControl)
    (hself : (f (x.rc t)).owed n ⊆ (x.rc t).owed n) (hothers : ∀ m, m ≠ n → (f (x.rc t)).owed m = (x.rc t).owed m) :
    s.Orderly (x.modRc t f) := by
  have hrc (u m : Index) (hm : m ≠ n) : ((x.modRc t f).rc u).owed m = (x.rc u).owed m := by
    rw [modRc_rc]
    split
    · rename_i hu; subst hu; exact hothers m hm
    · rfl
  refine h.trans (.of_base (hs := fun _ => []) (rs := []) rfl (fun m => by simp) (fun _ => rfl) (fun _ _ => rfl) (fun _ => rfl)
    (fun _ => rfl) (fun _ => rfl) rfl (fun _ => by simp) (fun m ho => ?_) (fun u m => ?_) fun u m => ?_)
  · have hm : m ≠ n := by rintro rfl; simp [hn] at ho
    simp [owed_eq, hrc _ m hm]
  · rw [modRc_rc]
    split
    · rename_i hu
      subst hu
      by_cases hm : m = n
      · subst hm; exact hself
      · rw [hothers m hm]; exact List.Subset.refl _
    · exact List.Subset.refl _
  · rw [modRc_acc]; exact List.Subset.refl _

/-- The same of an Access Engine. -/
theorem modAccFor (h : s.Orderly x) {n : Index} (hn : x.isOpen n = false) (t : Index) (f : AccessEngine → AccessEngine)
    (hself : (f (x.acc t)).owed n ⊆ (x.acc t).owed n) (hothers : ∀ m, m ≠ n → (f (x.acc t)).owed m = (x.acc t).owed m) :
    s.Orderly (x.modAcc t f) := by
  have hacc (u m : Index) (hm : m ≠ n) : ((x.modAcc t f).acc u).owed m = (x.acc u).owed m := by
    rw [modAcc_acc]
    split
    · rename_i hu; subst hu; exact hothers m hm
    · rfl
  refine h.trans (.of_base (hs := fun _ => []) (rs := []) rfl (fun m => by simp) (fun _ => rfl) (fun _ _ => rfl) (fun _ => rfl)
    (fun _ => rfl) (fun _ => rfl) rfl (fun _ => by simp) (fun m ho => ?_) (fun u m => ?_) fun u m => ?_)
  · have hm : m ≠ n := by rintro rfl; simp [hn] at ho
    simp [owed_eq, hacc _ m hm]
  · rw [modAcc_rc]; exact List.Subset.refl _
  · rw [modAcc_acc]
    split
    · rename_i hu
      subst hu
      by_cases hm : m = n
      · subst hm; exact hself
      · rw [hothers m hm]; exact List.Subset.refl _
    · exact List.Subset.refl _

end Orderly

/-- What a Run Control Unit takes out of its records at the end of Sn. -/
def withdrawRc (n : Index) (r : RunControl) : RunControl :=
  { r with
    hold := r.hold.remove n
    waiters := r.waiters.filter fun w => w.session != n
    stepSeq := r.stepSeq.map fun q => if q.session = n then { q with aborted := true, discard := true } else q
    resetRec := r.resetRec.map fun q => if q.session = n then { q with discard := true } else q }

/-- What an Access Engine leaves in its queue at the end of Sn. -/
def withdrawAcc (n : Index) (es : List AccEntry) : List AccEntry :=
  (es.filter fun e => e.session != n || e.inFlight).map fun e => if e.session = n then { e with discard := true } else e

theorem owed_withdrawRc_self (n : Index) (r : RunControl) : (withdrawRc n r).owed n = [] := by
  have hseq : ((withdrawRc n r).stepSeq.toList.filter fun q => q.session == n && !q.discard) = [] := by
    cases hq : r.stepSeq with
    | none => simp [withdrawRc, hq]
    | some q => by_cases hs : q.session = n <;> simp [withdrawRc, hq, hs]
  have hreset : ((withdrawRc n r).resetRec.toList.filter fun q => q.session == n && !q.discard) = [] := by
    cases hq : r.resetRec with
    | none => simp [withdrawRc, hq]
    | some q => by_cases hs : q.session = n <;> simp [withdrawRc, hq, hs]
  have hwaiters : ((withdrawRc n r).waiters.filter fun w => w.session == n) = [] := by simp [withdrawRc, List.filter_filter]
  simp only [RunControl.owed, hseq, hreset, hwaiters, List.map_nil, List.append_nil]

theorem owed_withdrawRc_of_ne {m n : Index} (hm : m ≠ n) (r : RunControl) : (withdrawRc n r).owed m = r.owed m := by
  have hseq : ((withdrawRc n r).stepSeq.toList.filter fun q => q.session == m && !q.discard) =
      r.stepSeq.toList.filter fun q => q.session == m && !q.discard := by
    cases hq : r.stepSeq with
    | none => simp [withdrawRc, hq]
    | some q => by_cases hs : q.session = n <;> simp [withdrawRc, hq, hs, Ne.symm hm]
  have hreset : ((withdrawRc n r).resetRec.toList.filter fun q => q.session == m && !q.discard) =
      r.resetRec.toList.filter fun q => q.session == m && !q.discard := by
    cases hq : r.resetRec with
    | none => simp [withdrawRc, hq]
    | some q => by_cases hs : q.session = n <;> simp [withdrawRc, hq, hs, Ne.symm hm]
  have hwaiters : ((withdrawRc n r).waiters.filter fun w => w.session == m) = r.waiters.filter fun w => w.session == m := by
    simp only [withdrawRc, List.filter_filter]
    refine List.filter_congr fun w _ => ?_
    by_cases hw : w.session = m <;> simp [hw, hm]
  simp only [RunControl.owed, hseq, hreset, hwaiters]

theorem owed_withdrawAcc_self (n : Index) (a : AccessEngine) : ({ a with queue := withdrawAcc n a.queue }).owed n = [] := by
  simp only [AccessEngine.owed, withdrawAcc]
  induction a.queue with
  | nil => rfl
  | cons e es ih =>
    rw [List.filter_cons]
    split
    · rw [List.map_cons, List.filter_cons]
      by_cases hs : e.session = n
      · simpa [hs] using ih
      · simpa [hs] using ih
    · exact ih

theorem owed_withdrawAcc_of_ne {m n : Index} (hm : m ≠ n) (a : AccessEngine) :
    ({ a with queue := withdrawAcc n a.queue }).owed m = a.owed m := by
  simp only [AccessEngine.owed, withdrawAcc]
  induction a.queue with
  | nil => rfl
  | cons e es ih =>
    by_cases hs : e.session = n
    · cases hf : e.inFlight <;> simpa [List.filter_cons, hs, hf, Ne.symm hm] using ih
    · by_cases hs' : e.session = m <;> cases hd : e.discard <;> simpa [List.filter_cons, hs, hs', hm, hd] using ih

namespace Orderly

variable {s x : State} (h : s.Orderly x) {n : Index} (hn : x.isOpen n = false)

include h

/-- The lock let go, and watchers told. -/
theorem dropLock (t : Index) : s.Orderly ((x.modRc t fun r => { r with lock := none }).notifyState t) := (h.modRc t _).notifyState t

include hn

theorem endInRunControl (t : Index) : s.Orderly (x.endInRunControl n t) := by
  have h1 : s.Orderly (x.modRc t (withdrawRc n)) := h.modRcFor hn t _ (by simp [owed_withdrawRc_self]) fun m hm => owed_withdrawRc_of_ne hm _
  have h2 := choice (c := ((x.rc t).hold.has n && (x.rc t).run == .halted) = true) (h1.afterHoldChange t) h1
  exact choice (h2.dropLock t) h2

omit hn in
theorem watchEach (before : State) (ts : List Index) : s.Orderly (ts.foldl (fun s' t => s'.watchSince before t) x) := by
  induction ts generalizing x with
  | nil => exact h
  | cons t ts ih => exact ih (h.watchSince t before)

omit hn in
theorem endInBreakTable (n : Index) : s.Orderly (x.endInBreakTable n) := (h.dropRecords _).watchEach x indices

theorem endInAccess (t : Index) : s.Orderly (x.endInAccess n t) := by
  have h1 : s.Orderly (x.modAcc t fun a => { a with queue := withdrawAcc n (x.acc t).queue }) :=
    h.modAccFor hn t _ (by simp [owed_withdrawAcc_self]) fun m hm => owed_withdrawAcc_of_ne hm (x.acc t)
  unfold State.endInAccess
  simp only
  split
  · split
    · exact h1.examine t
    · exact h1
  · exact h1

omit hn in
theorem endInNotices (n : Index) : s.Orderly (x.endInNotices n) := h.modNotice n _ (fun _ => NoticeQueue.kept_of_empty rfl) fun _ => rfl

omit hn h in
theorem length_keptAtEnd (u : LinkUnit) (c : EndCause) : (u.keptAtEnd c).length ≤ u.respQ.length := by
  unfold LinkUnit.keptAtEnd
  split
  · exact le_refl _
  · exact le_refl _
  · split
    · rename_i hq
      rw [hq]
      exact Nat.succ_le_succ (List.length_filter_le _ _)
    · exact List.length_filter_le _ _

omit hn in
theorem endInLinkUnit (n : Index) (c : EndCause) : s.Orderly (x.endInLinkUnit n c) :=
  h.shrinkLink n _ (by simpa using length_keptAtEnd _ c) rfl

theorem takeEnd (c : EndCause) (b : EndBlock) : s.Orderly (x.takeEnd n c b) := by
  cases b with
  | runControl t => exact h.endInRunControl hn t
  | breakTable => exact h.endInBreakTable n
  | access t => exact h.endInAccess hn t
  | notices => exact h.endInNotices n
  | linkUnit => exact h.endInLinkUnit n c

end Orderly

/-- What is left of a CLOSED session in the block `b`: nothing owed, and no notice. -/
def emptied (n : Index) (s : State) : EndBlock → Prop
  | .runControl t => (s.rc t).owed n = []
  | .access t => (s.acc t).owed n = []
  | .notices => (s.notice n).entries = []
  | .breakTable => True
  | .linkUnit => True

theorem Orderly.emptied {s x : State} (h : s.Orderly x) {n : Index} (hn : s.isOpen n = false) {b : EndBlock} (he : s.emptied n b) :
    x.emptied n b := by
  cases b with
  | runControl t => exact List.subset_nil.1 (he ▸ h.rcOwes t n)
  | access t => exact List.subset_nil.1 (he ▸ h.accOwes t n)
  | notices => exact h.closed n hn he
  | breakTable => trivial
  | linkUnit => trivial

/-- A block that has taken the announcement has emptied. -/
theorem emptied_takeEnd {s : State} {n : Index} (hn : s.isOpen n = false) (c : EndCause) (b : EndBlock) : (s.takeEnd n c b).emptied n b := by
  cases b with
  | runControl t =>
    have h0 : (s.modRc t (withdrawRc n)).emptied n (.runControl t) := by
      show ((s.modRc t (withdrawRc n)).rc t).owed n = []
      rw [modRc_rc_self]
      exact owed_withdrawRc_self n _
    have h1 := Orderly.refl (s.modRc t (withdrawRc n))
    have h2 := Orderly.choice (c := ((s.rc t).hold.has n && (s.rc t).run == .halted) = true) (h1.afterHoldChange t) h1
    exact (Orderly.choice (h2.dropLock t) h2).emptied hn h0
  | access t =>
    have h0 : (s.modAcc t fun a => { a with queue := withdrawAcc n (s.acc t).queue }).emptied n (.access t) := by
      show ((s.modAcc t fun a => { a with queue := withdrawAcc n (s.acc t).queue }).acc t).owed n = []
      rw [modAcc_acc_self]
      exact owed_withdrawAcc_self n (s.acc t)
    have h1 := Orderly.refl (s.modAcc t fun a => { a with queue := withdrawAcc n (s.acc t).queue })
    have hend : (s.modAcc t fun a => { a with queue := withdrawAcc n (s.acc t).queue }).Orderly (s.endInAccess n t) := by
      unfold State.endInAccess
      simp only
      split
      · split
        · exact h1.examine t
        · exact h1
      · exact h1
    exact hend.emptied hn h0
  | notices => simp [State.takeEnd, endInNotices, State.emptied]
  | breakTable => trivial
  | linkUnit => trivial

/-- After all blocks have taken the announcement, each has emptied, and the sessions still open are as orderly as they were. -/
theorem takeEnds {s : State} {n : Index} (hn : s.isOpen n = false) (c : EndCause) (bs : List EndBlock) :
    s.Orderly (bs.foldl (takeEnd n c) s) ∧ ∀ b ∈ bs, (bs.foldl (takeEnd n c) s).emptied n b := by
  induction bs generalizing s with
  | nil => exact ⟨.refl s, by simp⟩
  | cons b bs ih =>
    have h1 : s.Orderly (s.takeEnd n c b) := (Orderly.refl s).takeEnd hn c b
    have hn' : (s.takeEnd n c b).isOpen n = false := (h1.isOpen n).trans hn
    obtain ⟨hrest, hempty⟩ := ih hn'
    refine ⟨h1.trans hrest, fun b' hb' => ?_⟩
    rcases List.mem_cons.1 hb' with rfl | hb'
    · exact hrest.emptied hn' (emptied_takeEnd hn c b')
    · exact hempty b' hb'

/-- A session's end, seen from its own record closed: orderly, and with nothing of it left. -/
theorem endSession_closes {s : State} {n : Index} (ho : s.isOpen n = true) (c : EndCause) :
    (s.closedFor n).Orderly (s.endSession n c) ∧ (s.closedFor n).isOpen n = false ∧ ∀ b, (s.endSession n c).emptied n b := by
  obtain ⟨order, horder, heq⟩ := s.endSession_eq n c ho
  have hclosed : (s.closedFor n).isOpen n = false := by
    simp [State.isOpen, closedFor, modSession, session]
  obtain ⟨horderly, hempty⟩ := takeEnds hclosed c order
  rw [heq]
  exact ⟨horderly, hclosed, fun b => hempty b (horder.2 b)⟩

end State

end Sys2Proof.Machine
end

section
/-! PROOF. A new record leaves table and banks in agreement; the requests that no block defers are orderly. -/

namespace Sys2Proof.Machine

/-! ### A new record (R39, R49, R50) -/

/-- What binding finds: a comparator bound to the same specification, or a free eligible one where no bound comparator has it. -/
theorem bindTo?_cases {bank : Quad Comparator} {m : MatchSpec} {c : Index} {shared : Bool} (h : bindTo? bank m = some (c, shared)) :
    ((bank.get c).subs ≠ [] ∧ (bank.get c).spec = some m) ∨
      ((bank.get c).subs = [] ∧ c ∈ eligible m.cond ∧ ∀ d, (bank.get d).subs ≠ [] → (bank.get d).spec ≠ some m) := by
  unfold bindTo? at h
  split at h
  · rename_i d hd
    simp only [Option.some.injEq, Prod.mk.injEq] at h
    obtain ⟨rfl, -⟩ := h
    have := List.find?_some hd
    simp only [Bool.and_eq_true, Bool.not_eq_true', List.isEmpty_eq_false_iff, beq_iff_eq] at this
    exact .inl this
  · rename_i hnone
    split at h
    · rename_i d hd
      simp only [Option.some.injEq, Prod.mk.injEq] at h
      obtain ⟨rfl, -⟩ := h
      refine .inr ⟨List.isEmpty_iff.1 (List.find?_some (p := fun c => (bank.get c).subs.isEmpty) hd), List.mem_of_find?_eq_some hd,
        fun e he hs => ?_⟩
      have := List.find?_eq_none.1 hnone e (mem_indices e)
      simp [he, hs] at this
    · exact absurd h (by simp)

namespace State

theorem freeHandle?_eq_some {s : State} {h : Handle} (hf : s.freeHandle? = some h) : ∀ x ∈ s.records, x.handle ≠ h := by
  have hnone := List.find?_some hf
  simp only [Option.isNone_iff_eq_none, record?, List.find?_eq_none, beq_iff_eq] at hnone
  exact hnone

theorem bank_bindRecord (s : State) (x : Record) (t c : Index) : ((s.bindRecord x).bank t).get c =
    if t = x.target ∧ c = x.comparator then
      { spec := some x.spec, subs := ((s.bank x.target).get x.comparator).subs ++ [x.handle] }
    else (s.bank t).get c := by
  unfold bindRecord
  rw [modBank_bank]
  by_cases ht : t = x.target
  · subst ht
    rw [if_pos rfl, Quad.get_modify]
    simp only [true_and]
    split <;> rfl
  · simp [ht, bank, target]

/-- A fresh record, bound as binding finds, leaves table and banks in agreement. -/
theorem banksKept_bindRecord {s : State} (hk : s.banksKept) {x : Record} (hfresh : ∀ y ∈ s.records, y.handle ≠ x.handle)
    (hle : x.remaining ≤ x.passes) (hkind : x.cond.isSome → x.kind ≠ .fetch ∧ x.kind ≠ .any) {shared : Bool}
    (hbind : bindTo? (s.bank x.target) x.spec = some (x.comparator, shared)) : (s.bindRecord x).banksKept := by
  obtain ⟨hpair, hrec, hbank⟩ := hk
  have hcases := bindTo?_cases hbind
  have hmem' (y : Record) : y ∈ (s.bindRecord x).records ↔ y = x ∨ y ∈ s.records := mem_insertRecord
  have hsub {y : Record} (hy : y ∈ s.records) : y.handle ∈ ((s.bank y.target).get y.comparator).subs :=
    ((hbank y.target y.comparator).2.2.1 y.handle).2 ⟨y, hy, rfl, rfl, rfl⟩
  have hother (d : Index) (hd : d ≠ x.comparator) (hsome : ((s.bank x.target).get d).spec.isSome) :
      ((s.bank x.target).get d).spec ≠ some x.spec := by
    rcases hcases with ⟨-, hspec⟩ | ⟨-, -, hfree⟩
    · exact hspec ▸ (hbank x.target d).2.2.2 x.comparator hd.symm hsome
    · exact hfree d ((hbank x.target d).2.1.1 hsome)
  refine ⟨pairwise_insertRecord hpair hfresh, fun y hy => ?_, fun t c => ?_⟩
  · rcases (hmem' y).1 hy with rfl | hy
    · rw [bank_bindRecord, if_pos ⟨rfl, rfl⟩]
      refine ⟨hle, rfl, fun hc => ⟨?_, hkind hc⟩⟩
      rcases hcases with ⟨hne, hspec⟩ | ⟨-, helig, -⟩
      · obtain ⟨g, hg⟩ := List.exists_mem_of_ne_nil _ hne
        obtain ⟨z, hz, -, ht, hzc⟩ := ((hbank y.target y.comparator).2.2.1 g).1 hg
        obtain ⟨-, hzs, hzcond⟩ := hrec z hz
        rw [ht, hzc, hspec] at hzs
        have hcond : z.cond = y.cond := congrArg MatchSpec.cond (Option.some.inj hzs).symm
        rw [hcond, hzc] at hzcond
        exact (hzcond hc).1
      · obtain ⟨d, hd⟩ := Option.isSome_iff_exists.1 hc
        simp only [eligible, Record.spec, hd, List.mem_cons, List.not_mem_nil, or_false] at helig
        rcases helig with h2 | h3
        · simp [h2]
        · simp [h3]
    · obtain ⟨hle', hspec', hcond'⟩ := hrec y hy
      refine ⟨hle', ?_, hcond'⟩
      rw [bank_bindRecord]
      split
      · rename_i hsame
        obtain ⟨ht, hc⟩ := hsame
        rcases hcases with ⟨-, hspec⟩ | ⟨hempty, -⟩
        · rw [← hspec', ht, hc, hspec]
        · have := hsub hy
          rw [ht, hc, hempty] at this
          exact absurd this List.not_mem_nil
      · exact hspec'
  · obtain ⟨hnodup, hbound, hmem, hdiff⟩ := hbank t c
    rw [bank_bindRecord]
    by_cases hat : t = x.target ∧ c = x.comparator
    · obtain ⟨rfl, rfl⟩ := hat
      have hnew : x.handle ∉ ((s.bank x.target).get x.comparator).subs := fun hin => by
        obtain ⟨y, hy, hh, -⟩ := (hmem x.handle).1 hin
        exact hfresh y hy hh
      simp only [and_self, if_true]
      refine ⟨?_, by simp, fun g => ?_, fun d hd _ => ?_⟩
      · exact List.nodup_append.2 ⟨hnodup, List.nodup_singleton _, fun a ha b hb => by
          rw [List.mem_singleton] at hb
          subst hb
          rintro rfl
          exact hnew ha⟩
      · simp only [List.mem_append, List.mem_singleton, hmem, hmem']
        constructor
        · rintro (⟨y, hy, rest⟩ | rfl)
          · exact ⟨y, .inr hy, rest⟩
          · exact ⟨x, .inl rfl, rfl, rfl, rfl⟩
        · rintro ⟨y, rfl | hy, hh, rest⟩
          · exact .inr hh.symm
          · exact .inl ⟨y, hy, hh, rest⟩
      · rw [bank_bindRecord, if_neg (fun hand => hd hand.2)]
        intro heq
        exact hother d hd (by simp [← heq]) heq.symm
    · simp only [hat, if_false]
      refine ⟨hnodup, hbound, fun g => ?_, fun d hd hsome => ?_⟩
      · rw [hmem]
        constructor
        · rintro ⟨y, hy, rest⟩
          exact ⟨y, (hmem' y).2 (.inr hy), rest⟩
        · rintro ⟨y, hy, hh, ht, hc⟩
          rcases (hmem' y).1 hy with rfl | hy
          · exact absurd ⟨ht.symm, hc.symm⟩ hat
          · exact ⟨y, hy, hh, ht, hc⟩
      · rw [bank_bindRecord]
        split
        · rename_i hd'
          obtain ⟨rfl, rfl⟩ := hd'
          exact hother c (fun hc => hd hc.symm) hsome
        · exact hdiff d hd hsome

/-- A SETBRK's fields exclude a data condition for FETCH and ANY (R47). -/
theorem kind_of_setbrkFields {mode : Byte} {cond : Option DataCond} {k : BrkKind} {a : Action}
    (h : setbrkFields? mode cond = some (k, a)) (hc : cond.isSome) : k ≠ .fetch ∧ k ≠ .any := by
  unfold setbrkFields? at h
  split at h
  · split at h
    · exact absurd h (by simp)
    · rename_i hno
      simp only [Option.some.injEq, Prod.mk.injEq] at h
      obtain ⟨rfl, rfl⟩ := h
      simp only [hc, Bool.true_and, Bool.or_eq_true, not_or, beq_iff_eq] at hno
      exact hno.2
  · exact absurd h (by simp)

/-- What an accepted SETBRK has found. -/
theorem setbrkVerdict_eq_inr {s : State} {n t : Index} {mode : Byte} {address mask : Addr} {cond : Option DataCond} {k : BrkKind}
    {a : Action} {h : Handle} {c : Index} {shared : Bool} (hv : s.setbrkVerdict n t mode address mask cond = .inr (k, a, h, c, shared)) :
    setbrkFields? mode cond = some (k, a) ∧ s.freeHandle? = some h ∧
      bindTo? (s.bank t) (setbrkSpec k address mask cond) = some (c, shared) := by
  unfold setbrkVerdict at hv
  split at hv
  · exact absurd hv (by simp)
  · rename_i k' a' hf
    split at hv
    · exact absurd hv (by simp)
    · split at hv
      · exact absurd hv (by simp)
      · rename_i h' hh
        split at hv
        · exact absurd hv (by simp)
        · rename_i c' shared' hb
          simp only [Sum.inr.injEq, Prod.mk.injEq] at hv
          obtain ⟨rfl, rfl, rfl, rfl, rfl⟩ := hv
          exact ⟨hf, hh, hb⟩

theorem bindRecord_rc (s : State) (x : Record) (t : Index) : (s.bindRecord x).rc t = s.rc t := by
  unfold bindRecord
  rw [modBank_rc]
  rfl

theorem bindRecord_acc (s : State) (x : Record) (t : Index) : (s.bindRecord x).acc t = s.acc t := by
  unfold bindRecord
  rw [modBank_acc]
  rfl

/-! ### The requests that no block defers -/

namespace Orderly

variable {s x : State} (h : s.Orderly x) (n t : Index) (tag : Byte)

include h

theorem takeSetbrk (mode : Byte) (address mask : Addr) (passes : Half) (cond : Option DataCond) :
    s.Orderly (x.takeSetbrk n tag t mode address mask passes cond) := by
  unfold State.takeSetbrk
  split
  · exact h.respondPlain n tag _ _
  · rename_i k a g c shared hv
    obtain ⟨hfields, hfree, hbind⟩ := setbrkVerdict_eq_inr hv
    refine respondNow (watchSince (h.trans (.of_table ?_ ?_ ?_ (fun u => ?_) (fun u => ?_) fun hb => ?_)) t x) n _
    · rfl
    · rfl
    · rfl
    · exact bindRecord_rc x _ u
    · exact bindRecord_acc x _ u
    · refine banksKept_bindRecord hb (freeHandle?_eq_some hfree) (BitVec.le_refl _) (fun hc => ?_) hbind
      exact kind_of_setbrkFields hfields (by simpa [setbrkSpec] using hc)

theorem takeClrbrk (handle : Byte) : s.Orderly (x.takeClrbrk n tag handle) := by
  unfold State.takeClrbrk
  split
  · exact h.respondPlain n tag _ _
  · split
    · exact h.respondPlain n tag _ _
    · rename_i g _ _ y hy
      have h1 := (h.dropRecord g).watchSince y.target x
      exact choice (h.respondPlain n tag _ _) ((choice h1 (h1.queueNotice _ _)).respondNow n _)

theorem takeQbrk (handle part : Byte) : s.Orderly (x.takeQbrk n tag handle part) := by
  unfold State.takeQbrk
  split
  · exact h.respondPlain n tag _ _
  · split
    · exact h.respondPlain n tag _ _
    · split
      · exact h.respondPlain n tag _ _
      · exact h.respondNow n _

theorem configChanged (item value : Byte) : s.Orderly (x.configChanged t item value) := by
  unfold State.configChanged
  exact choice (choice (h.loseTarget t _) (choice (h.attach t) (h.modPort t _))) h

theorem takeConfigRead (item : Byte) : s.Orderly (x.takeConfigRead n tag t item) := by
  unfold State.takeConfigRead
  exact choice (h.respondPlain n tag _ _) (h.respondNow n _)

theorem takeConfigSet (item value : Byte) : s.Orderly (x.takeConfigSet n tag t item value) := by
  unfold State.takeConfigSet
  split
  · exact h.respondPlain n tag _ _
  · exact (choice h ((h.modCfg t _).configChanged t item value)).respondNow n _

theorem takeStatus : s.Orderly (x.takeStatus n tag t) := h.respondNow n _

/-- A change of the step sequence record that leaves its request as it is, with other fields of the unit that owe nothing. -/
theorem markSeq (f : StepSeq → StepSeq) (g : RunControl → RunControl)
    (hf : ∀ q, (f q).session = q.session ∧ (f q).tag = q.tag ∧ (f q).discard = q.discard)
    (hg : ∀ r, (g r).waiters = r.waiters ∧ (g r).stepSeq = r.stepSeq.map f ∧ (g r).resetRec = r.resetRec) :
    s.Orderly (x.modRc t g) := by
  refine h.modRc t _ fun m => ?_
  obtain ⟨hw, hq, hr⟩ := hg (x.rc t)
  unfold RunControl.owed
  rw [hw, hq, hr]
  cases (x.rc t).stepSeq with
  | none => rfl
  | some q =>
    obtain ⟨hs, ht, hd⟩ := hf q
    simp only [Option.map_some, Option.toList_some, List.filter_cons, List.filter_nil, hs, hd]
    split <;> simp [ht]

theorem takeLock : s.Orderly (x.takeLock n tag t) := by
  unfold State.takeLock
  refine choice (h.respondPlain n tag _ _) ?_
  split
  · exact choice (h.respondNow n _) (h.respondNow n _)
  · refine ((h.markSeq t (fun q => if q.session = n then q else { q with interrupted := true })
      (fun r => { r with
        lock := some n
        stepSeq := r.stepSeq.map fun q => if q.session = n then q else { q with interrupted := true } })
      (fun q => ?_) fun _ => ⟨rfl, rfl, rfl⟩).notifyState t).respondNow n _
    split <;> exact ⟨rfl, rfl, rfl⟩

theorem takeUnlock : s.Orderly (x.takeUnlock n tag t) := by
  unfold State.takeUnlock
  exact choice (h.respondPlain n tag _ _) (choice (h.respondPlain n tag _ _) ((h.dropLock t).respondPlain n tag _ _))

omit h in
/-- Notices queued one after another. -/
theorem queueEach (b : State → Index → NoticeBody) (p : Index → Bool) (dest : Index → Index) (ts : List Index) :
    ∀ {y : State}, s.Orderly y →
      s.Orderly (ts.foldl (fun s' m => if p m then s'.queueNotice (dest m) (b s' m) else s') y) := by
  induction ts with
  | nil => exact fun hy => hy
  | cons m ts ih => exact fun {y} hy => ih (choice (c := p m = true) (hy.queueNotice _ _) hy)

theorem takeFrel : s.Orderly (x.takeFrel n tag t) := by
  unfold State.takeFrel
  refine choice (h.respondPlain n tag _ _) ?_
  have h1 := h.markSeq t (fun q => if (x.revokedHold n t).get q.session then { q with aborted := true } else q)
    (fun r => { r with
      hold := { members := (Quad.all false).set n (r.hold.has n), self := false }
      stepSeq := r.stepSeq.map fun q => if (x.revokedHold n t).get q.session then { q with aborted := true } else q })
    (fun q => by split <;> exact ⟨rfl, rfl, rfl⟩) fun _ => ⟨rfl, rfl, rfl⟩
  have h3 := queueEach (fun _ m => .revokedClaims t ((x.revokedHold n t).get m) ((x.revokedLock n t).get m))
    (fun m => (x.revokedHold n t).get m || (x.revokedLock n t).get m) id indices (h1.abortHalts t (x.revokedHold n t).get)
  refine respondNow (choice ?acted (dropLock ?acted t)) n _
  exact choice (h3.afterHoldChange t) h3

theorem takePing : s.Orderly (x.takePing n tag) := by
  unfold State.takePing
  split
  · exact h
  · exact h.respondNow n _

theorem takeAck (seq : Byte) : s.Orderly (x.takeAck n tag seq) := by
  unfold State.takeAck
  split
  · exact h.respondPlain n tag _ _
  · rename_i rest hrest
    obtain ⟨old, hq⟩ := NoticeQueue.afterSeq?_eq_some hrest
    exact (h.modNotice n _ (fun hk => hk.of_suffix hq) fun he => (List.append_eq_nil_iff.1 (hq.symm.trans he)).2).respondNow n _

theorem takeReplay : s.Orderly (x.takeReplay n tag) :=
  ((h.modNotice n _ (fun hk => hk.congr (NoticeQueue.map_sign_unsend _ _) rfl) fun he => by rw [he]; rfl).arbitrate n).respondNow n _

theorem takeWatch (mask : Byte) : s.Orderly (x.takeWatch n tag mask) := by
  unfold State.takeWatch
  refine choice (h.respondPlain n tag _ _) (respondNow ?_ n _)
  have hall (ts : List Index) : ∀ {y : State}, s.Orderly y → s.Orderly (ts.foldl (fun s' u => s'.queueNotice n (s'.stateBody u)) y) := by
    induction ts with
    | nil => exact fun hy => hy
    | cons u ts ih => exact fun hy => ih (hy.queueNotice _ _)
  exact hall _ (h.modOpen n _)

end Orderly

end State

end Sys2Proof.Machine
end

section
/-! PROOF. The requests that a block defers, OPEN and CLOSE: tidy, and the tag that joins a window is taken over by a block. -/

namespace Sys2Proof.Machine.State

/-! ### The requests that a block defers -/

theorem Tidy.then {s x y : State} (h : s.Tidy x) (h' : x.Orderly y) : s.Tidy y := h.trans h'.toTidy

theorem Tidy.modRc {s x : State} (h : s.Tidy x) (t : Index) (f : RunControl → RunControl) : s.Tidy (x.modRc t f) :=
  h.trans ⟨fun _ => rfl, fun _ => rfl, fun _ hq => hq, fun _ _ hq => hq, banksKept_congr rfl fun u => modRc_bank x t u f⟩

theorem Tidy.modAcc {s x : State} (h : s.Tidy x) (t : Index) (f : AccessEngine → AccessEngine) : s.Tidy (x.modAcc t f) :=
  h.trans ⟨fun _ => rfl, fun _ => rfl, fun _ hq => hq, fun _ _ hq => hq, banksKept_congr rfl fun u => modAcc_bank x t u f⟩

theorem Tidy.joinWindow {s x : State} (h : s.Tidy x) (n : Index) (tag : Byte) : s.Tidy (x.joinWindow n tag) :=
  h.trans ⟨fun m => isOpen_modOpen x m n _, fun _ => rfl, fun _ hq => hq, fun _ _ hq => hq, fun hb => hb⟩

theorem Tidy.choice {s x y : State} {c : Prop} [Decidable c] (hx : s.Tidy x) (hy : s.Tidy y) : s.Tidy (if c then x else y) := by
  split
  · exact hx
  · exact hy

theorem Orderly.windowKept {s s' : State} (h : s.Orderly s') (hw : s.windowKept) : s'.windowKept :=
  windowKept_iff.2 fun n => h.windowOf (windowKept_iff.1 hw n)

/-- The windows are balanced but for `tag`, which no block has taken over for Sl yet. -/
def lacking (s : State) (l : Index) (tag : Byte) : Prop := ∀ n, s.windowOf n (if n = l then [tag] else [])

/-- A request that can join the window of Sl: the session is open, nothing waits on its link, and the window has room for the tag. -/
structure Admits (s : State) (l : Index) (tag : Byte) : Prop where
  isOpen : s.isOpen l = true
  idle : (s.link l).routed = none
  fresh : tag ∉ s.tags l
  room : s.windowOpen l = true

theorem Orderly.lacking {s s' : State} (h : s.Orderly s') {l : Index} {tag : Byte} (hw : s.lacking l tag) : s'.lacking l tag :=
  fun n => h.windowOf (hw n)

theorem Orderly.admits {s s' : State} (h : s.Orderly s') {l : Index} {tag : Byte} (hw : s.windowKept) (ha : s.Admits l tag) :
    s'.Admits l tag where
  isOpen := (h.isOpen l).trans ha.isOpen
  idle := (h.routed l).trans ha.idle
  fresh hin := ha.fresh (h.fewer l hin)
  room := h.spare l [] (windowKept_iff.1 hw l) ha.room

theorem lacking_joinWindow {s : State} {l : Index} {tag : Byte} (hw : s.windowKept) (ha : s.Admits l tag) :
    (s.joinWindow l tag).lacking l tag := by
  intro n
  by_cases hn : n = l
  · subst hn
    obtain ⟨hperm, hnodup, h4, h8, -⟩ := windowKept_iff.1 hw n
    have htags : (s.joinWindow n tag).tags n = s.tags n ++ [tag] := tags_joinWindow s n tag ha.isOpen
    have hout : (s.joinWindow n tag).outstanding n = s.outstanding n + 1 := by simp [outstanding, htags]
    have howed : (s.joinWindow n tag).owed n = s.owed n := rfl
    obtain ⟨hroom4, hroom8⟩ := (windowOpen_iff s n).1 ha.room
    have hlink : (s.joinWindow n tag).link n = s.link n := rfl
    rw [if_pos rfl]
    refine ⟨?_, ?_, by omega, by rw [hlink]; omega, fun r hr => ?_⟩
    · rw [htags, howed]
      exact (hperm.trans (by rw [List.append_nil])).append_right _
    · rw [htags]
      exact List.nodup_append.2 ⟨hnodup, List.nodup_singleton _, fun a hin b hb => by
        rw [List.mem_singleton] at hb
        subst hb
        rintro rfl
        exact ha.fresh hin⟩
    · rw [hlink, ha.idle] at hr
      exact absurd hr (by simp)
  · have htags : (s.joinWindow l tag).tags n = s.tags n := by simp [tags, joinWindow_sessions_ne hn]
    have hout : (s.joinWindow l tag).outstanding n = s.outstanding n := congrArg List.length htags
    have hopen : (s.joinWindow l tag).isOpen n = s.isOpen n := isOpen_modOpen s n l _
    have hwo : (s.joinWindow l tag).windowOpen n = s.windowOpen n := by
      rw [Bool.eq_iff_iff, windowOpen_iff, windowOpen_iff, hout]
      rfl
    have hkept := windowKept_iff.1 hw n
    rw [if_neg hn]
    unfold State.windowOf at hkept ⊢
    rw [htags, hout, hopen, hwo]
    exact hkept

/-- A block takes the request over. -/
theorem windowKept_of_owing {s s' : State} {l : Index} {tag : Byte} (hlinks : s'.links = s.links) (hsess : s'.sessions = s.sessions)
    (howed : ∀ n, (s'.owed n).Perm (s.owed n ++ if n = l then [tag] else [])) (h : s.lacking l tag) : s'.windowKept := by
  refine windowKept_iff.2 fun n => ?_
  have hlink : s'.link n = s.link n := congrArg (·.get n) hlinks
  have hout : s'.outstanding n = s.outstanding n := congrArg List.length (tags_congr hsess n)
  have hwo : s'.windowOpen n = s.windowOpen n := by
    rw [Bool.eq_iff_iff, windowOpen_iff, windowOpen_iff, hout, hlink]
  obtain ⟨hperm, hrest⟩ := h n
  refine ⟨?_, ?_⟩
  · rw [tags_congr hsess, List.append_nil]
    exact hperm.trans (howed n).symm
  · rw [tags_congr hsess, hout, hlink, isOpen_congr hsess, hwo]
    exact hrest

theorem windowKept_modRc {s : State} {l t : Index} {tag : Byte} (h : s.lacking l tag) (f : RunControl → RunControl)
    (hf : ∀ n, ((f (s.rc t)).owed n).Perm ((s.rc t).owed n ++ if n = l then [tag] else [])) : (s.modRc t f).windowKept := by
  refine windowKept_of_owing (s := s) rfl rfl (fun n => owed_perm_of_target (t := t) (fun u hu => ?_) ?_) h
  · rw [modRc_rc_of_ne _ _ hu, modRc_acc]; exact ⟨rfl, rfl⟩
  · rw [modRc_rc_self, modRc_acc]
    refine ((hf n).append_right _).trans ?_
    rw [List.append_assoc, List.append_assoc]
    exact List.perm_append_comm.append_left _

theorem windowKept_modAcc {s : State} {l t : Index} {tag : Byte} (h : s.lacking l tag) (f : AccessEngine → AccessEngine)
    (hf : ∀ n, ((f (s.acc t)).owed n).Perm ((s.acc t).owed n ++ if n = l then [tag] else [])) : (s.modAcc t f).windowKept := by
  refine windowKept_of_owing (s := s) rfl rfl (fun n => owed_perm_of_target (t := t) (fun u hu => ?_) ?_) h
  · rw [modAcc_acc_of_ne _ _ hu, modAcc_rc]; exact ⟨rfl, rfl⟩
  · rw [modAcc_acc_self, modAcc_rc, List.append_assoc]
    exact (hf n).append_left _

theorem tidy_addWaiter {s x : State} (h : s.Tidy x) (t n : Index) (tag : Byte) (k : WaitKind) : s.Tidy (x.addWaiter t n tag k) :=
  (h.joinWindow n tag).modRc t _

/-- A waiter takes the tag over. -/
theorem windowKept_addWaiter {s : State} {l : Index} {tag : Byte} (hw : s.windowKept) (ha : s.Admits l tag) (t : Index) (k : WaitKind) :
    (s.addWaiter t l tag k).windowKept := by
  refine windowKept_modRc (lacking_joinWindow hw ha) _ fun n => ?_
  simp only [RunControl.owed, List.filter_append, List.map_append, List.append_assoc]
  refine List.Perm.append_left _ ?_
  by_cases hn : n = l
  · subst hn
    simp only [List.filter_cons, List.filter_nil, beq_self_eq_true, if_true, List.map_cons, List.map_nil]
    rw [← List.append_assoc, ← List.append_assoc, List.append_assoc [tag]]
    exact List.perm_append_comm
  · simp [hn, Ne.symm hn]

/-! HALT and RESUME check the window themselves. -/

theorem tidy_takeHalt (s : State) (n : Index) (tag : Byte) (t : Index) (emptyOps : Bool) : s.Tidy (s.takeHalt n tag t emptyOps) := by
  have h := Orderly.refl s
  unfold State.takeHalt
  refine .choice (h.respondPlain n tag _ _).toTidy (.choice (h.respondPlain n tag _ _).toTidy
    (.choice (h.respondPlain n tag _ _).toTidy (.choice (h.respondPlain n tag _ _).toTidy ?_)))
  split
  · exact ((h.claim t n _).respondPlain n tag _ _).toTidy
  · exact (tidy_addWaiter h.toTidy t n tag .halt).then ((Orderly.refl _).claim t n _)

theorem windowKept_takeHalt {s : State} {n : Index} {tag : Byte} (hw : s.windowKept)
    (ha : s.windowOpen n = true → s.Admits n tag) (t : Index) (emptyOps : Bool) : (s.takeHalt n tag t emptyOps).windowKept := by
  have h := Orderly.refl s
  have hplain (st : Status) := (h.respondPlain n tag 0x10 st).windowKept hw
  unfold State.takeHalt
  simp only
  split
  · exact hplain _
  rename_i hbusy
  split
  · exact hplain _
  split
  · exact hplain _
  rename_i hrole
  split
  · exact hplain _
  rename_i hlocked
  split
  · exact ((h.claim t n _).respondPlain n tag _ _).windowKept hw
  · rename_i hanswer
    have hroom : s.windowOpen n = true := by
      rw [hanswer] at hbusy
      simpa [hrole, hlocked] using hbusy
    exact ((Orderly.refl _).claim t n _).windowKept (windowKept_addWaiter hw (ha hroom) t .halt)

/-- The hold set change of a RESUME and the answers to the requester's HALT waiters. -/
theorem resumeBase_orderly (s : State) (n t : Index) : s.Orderly ((s.modRc t fun x =>
    { x with
      hold := s.holdAfterResume n t
      stepSeq := x.stepSeq.map fun q => if q.session = n && (s.rc t).hold.has n then { q with aborted := true } else q }).abortHalts t
    (· == n)) :=
  ((Orderly.refl s).markSeq t (fun q => if q.session = n && (s.rc t).hold.has n then { q with aborted := true } else q)
    (fun x => { x with
      hold := s.holdAfterResume n t
      stepSeq := x.stepSeq.map fun q => if q.session = n && (s.rc t).hold.has n then { q with aborted := true } else q })
    (fun q => by split <;> exact ⟨rfl, rfl, rfl⟩) fun _ => ⟨rfl, rfl, rfl⟩).abortHalts t _

theorem tidy_takeResume (s : State) (n : Index) (tag : Byte) (t : Index) (emptyOps : Bool) : s.Tidy (s.takeResume n tag t emptyOps) := by
  have h := Orderly.refl s
  have h2 := s.resumeBase_orderly n t
  unfold State.takeResume
  refine .choice (h.respondPlain n tag _ _).toTidy (.choice (h.respondPlain n tag _ _).toTidy
    (.choice (h.respondPlain n tag _ _).toTidy (.choice (h.respondPlain n tag _ _).toTidy (.choice ?_ ?_))))
  · exact .choice ((tidy_addWaiter h2.toTidy t n tag .resume).then ((Orderly.refl _).afterHoldChange t))
      (tidy_addWaiter h2.toTidy t n tag .resume)
  · exact ((Orderly.choice (h2.afterHoldChange t) h2).respondNow n _).toTidy

theorem windowKept_takeResume {s : State} {n : Index} {tag : Byte} (hw : s.windowKept)
    (ha : s.windowOpen n = true → s.Admits n tag) (t : Index) (emptyOps : Bool) : (s.takeResume n tag t emptyOps).windowKept := by
  have h := Orderly.refl s
  have h2 := s.resumeBase_orderly n t
  have hplain (st : Status) := (h.respondPlain n tag 0x11 st).windowKept hw
  unfold State.takeResume
  simp only
  split
  · exact hplain _
  rename_i hbusy
  split
  · exact hplain _
  split
  · exact hplain _
  rename_i hrole
  split
  · exact hplain _
  split
  · rename_i hdefer
    have hroom : s.windowOpen n = true := by
      rw [hdefer] at hbusy
      simpa [hrole] using hbusy
    have hwait := windowKept_addWaiter (h2.windowKept hw) (h2.admits hw (ha hroom)) t .resume
    split
    · exact ((Orderly.refl _).afterHoldChange t).windowKept hwait
    · exact hwait
  · exact ((Orderly.choice (h2.afterHoldChange t) h2).respondNow n _).windowKept hw

/-! STEP, READ, WRITE and TRESET have passed the window check of R159 on their way. -/

theorem tidy_takeStep (s : State) (n : Index) (tag : Byte) (t : Index) (count : Byte) : s.Tidy (s.takeStep n tag t count) := by
  have h := Orderly.refl s
  unfold State.takeStep
  split
  · exact (h.respondPlain n tag _ _).toTidy
  · have h1 := fun f => (h.toTidy.joinWindow n tag).modRc t f
    exact (Tidy.choice (h1 _) ((h1 _).then ((Orderly.refl _).sendStep t))).then ((Orderly.refl _).setRun t _)

theorem stepRefusal?_eq_none {s : State} {n t : Index} {count : Byte} (h : s.stepRefusal? n t count = none) :
    count ≠ 0 ∧ s.isObserver n = false ∧ (s.rc t).lockedAgainst n = false ∧ (s.rc t).run = .halted ∧ (s.rc t).hold.has n = true ∧
      (s.rc t).hold.hasOther n = false := by
  unfold stepRefusal? at h
  split at h
  · exact absurd h (by simp)
  split at h
  · exact absurd h (by simp)
  split at h
  · exact absurd h (by simp)
  split at h
  · exact absurd h (by simp)
  split at h
  · exact absurd h (by simp)
  split at h
  · exact absurd h (by simp)
  simp_all

theorem windowKept_takeStep {s : State} {n : Index} {tag : Byte} (hw : s.windowKept) (ha : s.Admits n tag) {t : Index}
    (hidle : (s.rc t).run = .halted → (s.rc t).stepSeq = none) (count : Byte) : (s.takeStep n tag t count).windowKept := by
  unfold State.takeStep
  split
  · exact ((Orderly.refl s).respondPlain n tag _ _).windowKept hw
  · rename_i hnone
    obtain ⟨-, -, -, hhalted, -⟩ := stepRefusal?_eq_none hnone
    have hjoin := windowKept_modRc (t := t) (lacking_joinWindow hw ha)
      (fun r => { r with hold := r.hold.removeSelf, relDefer := false, stepSeq := some (newSeq n tag count) }) fun m => by
        have hseq : ((s.joinWindow n tag).rc t).stepSeq = none := hidle hhalted
        simp only [RunControl.owed, hseq, newSeq]
        by_cases hm : m = n
        · subst hm
          simpa using ((List.perm_append_singleton tag _).symm).append_left _
        · simp [hm, Ne.symm hm]
    exact ((Orderly.choice (Orderly.refl _) ((Orderly.refl _).sendStep t)).setRun t _).windowKept hjoin

theorem tidy_addAccess (s : State) (n : Index) (tag : Byte) (t : Index) (op : AccOp) (space : Space) (location : Addr) :
    s.Tidy (s.addAccess n tag t op space location) := by
  have h1 := fun f => ((Tidy.refl s).joinWindow n tag).modAcc t f
  exact .choice ((h1 _).then ((Orderly.refl _).examine t)) (h1 _)

theorem windowKept_addAccess {s : State} {n : Index} {tag : Byte} (hw : s.windowKept) (ha : s.Admits n tag) (t : Index) (op : AccOp)
    (space : Space) (location : Addr) : (s.addAccess n tag t op space location).windowKept := by
  have hjoin := windowKept_modAcc (t := t) (lacking_joinWindow hw ha) (fun a =>
    { a with queue := a.queue ++ [{ session := n, tag, op, space, location, inFlight := false, written := false, discard := false }] })
    fun m => by
      by_cases hm : m = n
      · subst hm; simp [AccessEngine.owed]
      · simp [AccessEngine.owed, hm, Ne.symm hm]
  exact (Orderly.choice ((Orderly.refl _).examine t) (Orderly.refl _)).windowKept hjoin

theorem tidy_beginReset (s : State) (n : Index) (tag : Byte) (t : Index) : s.Tidy (s.beginReset n tag t) := by
  have h2 := ((((Orderly.refl s).endReset t .targetReset []).failInFlight t .targetReset).failSeq t .targetReset).answerAll t .targetReset
  exact (h2.toTidy.modRc t _).then ((((Orderly.refl _).modPort t _).hand t .rstOn).setRun t .resetting)

/-- After the answers to a reset in progress the unit has no reset record. -/
theorem resetRec_before (s : State) (t : Index) :
    ((((((s.endReset t .targetReset []).failInFlight t .targetReset).failSeq t .targetReset).answerAll t .targetReset).rc t)).resetRec =
      none := by
  have h1 : ((s.endReset t .targetReset []).rc t).resetRec = none := by
    rw [rc_of_mute (s.endReset_does t _ _).mute]
    simp
  have h2 : (((s.endReset t .targetReset []).failInFlight t .targetReset).rc t) = (s.endReset t .targetReset []).rc t := by
    unfold failInFlight
    split
    · cases hq : (((s.endReset t .targetReset []).modAcc t fun a => { a with exchange := none }).acc t).queue with
      | nil => rw [failHead_of_empty _ t hq]; simp
      | cons e rest =>
        rw [rc_of_mute (State.failHead_does _ t hq .targetReset).mute]
        simp
    · rfl
  have h3 := rc_of_mute (State.failSeq_does ((s.endReset t .targetReset []).failInFlight t .targetReset) t .targetReset).mute t
  have h4 := rc_of_mute (State.answerWaiters_does (((s.endReset t .targetReset []).failInFlight t .targetReset).failSeq t .targetReset) t
    (fun _ => true) .targetReset).mute t
  have h4' : (((((s.endReset t .targetReset []).failInFlight t .targetReset).failSeq t .targetReset).answerAll t .targetReset).rc
      t).resetRec = ((((s.endReset t .targetReset []).failInFlight t .targetReset).failSeq t .targetReset).rc t).resetRec := by
    unfold State.answerAll
    rw [h4]
    simp
  rw [h4', h3]
  simp [h2, h1]

theorem windowKept_beginReset {s : State} {n : Index} {tag : Byte} (hw : s.lacking n tag) (t : Index) :
    (s.beginReset n tag t).windowKept := by
  have h2 := ((((Orderly.refl s).endReset t .targetReset []).failInFlight t .targetReset).failSeq t .targetReset).answerAll t .targetReset
  have hnone := s.resetRec_before t
  have hjoin := windowKept_modRc (t := t) (h2.lacking hw) (fun r =>
    { r with
      hold := r.hold.removeSelf, relDefer := false, stopCause := none
      resetRec := some { session := n, tag, discard := false, phase := .holding }
      resetTimer := some (s.cfg t).resetHold.toNat }) fun m => by
    by_cases hm : m = n
    · subst hm; simp [RunControl.owed, hnone]
    · simp [RunControl.owed, hnone, hm, Ne.symm hm]
  exact ((((Orderly.refl _).modPort t _).hand t .rstOn).setRun t .resetting).windowKept hjoin

/-! ### OPEN and CLOSE -/

/-- Queues and banks are kept. -/
structure Keeps (s s' : State) : Prop where
  notices : s.noticesKept → s'.noticesKept
  banks : s.banksKept → s'.banksKept

theorem Tidy.keeps {s s' : State} (h : s.Tidy s') : s.Keeps s' := ⟨h.noticesKept, h.banks⟩

theorem Orderly.keeps {s s' : State} (h : s.Orderly s') : s.Keeps s' := h.toTidy.keeps

theorem Keeps.refl (s : State) : s.Keeps s := ⟨id, id⟩

theorem Keeps.trans {s x y : State} (h : s.Keeps x) (h' : x.Keeps y) : s.Keeps y :=
  ⟨fun hn => h'.notices (h.notices hn), fun hb => h'.banks (h.banks hb)⟩

/-- Queues and banks do not depend on the links. -/
theorem Keeps.modLink (s : State) (l : Index) (f : LinkUnit → LinkUnit) : s.Keeps (s.modLink l f) := ⟨fun h => h, fun h => h⟩

theorem Keeps.choice {s x y : State} {c : Prop} [Decidable c] (hx : s.Keeps x) (hy : s.Keeps y) : s.Keeps (if c then x else y) := by
  split
  · exact hx
  · exact hy

theorem endSession_keeps (s : State) (n : Index) (c : EndCause) : s.Keeps (s.endSession n c) := by
  cases ho : s.isOpen n with
  | false => rw [endSession_of_closed s n c ho]; exact .refl s
  | true =>
    obtain ⟨h, -, hempty⟩ := endSession_closes ho c
    refine ⟨fun hk => ?_, h.banks⟩
    rw [noticesKept_iff] at hk ⊢
    intro m
    obtain ⟨hq, hclosed⟩ := hk m
    refine ⟨h.queue m hq, fun hm => ?_⟩
    by_cases hmn : m = n
    · subst hmn; exact hempty .notices
    · have hsame : (s.closedFor n).isOpen m = s.isOpen m := by
        simp [State.isOpen, closedFor, session, modSession, Quad.get_modify_of_ne _ hmn]
      have hm' : (s.closedFor n).isOpen m = false := (h.isOpen m).symm.trans hm
      exact h.closed m hm' (hclosed (hsame.symm.trans hm'))

theorem windowKept_endSession {s : State} (hw : s.windowKept) (n : Index) (c : EndCause) : (s.endSession n c).windowKept := by
  cases ho : s.isOpen n with
  | false => rwa [endSession_of_closed s n c ho]
  | true =>
    obtain ⟨h, hn, hempty⟩ := endSession_closes ho c
    refine windowKept_iff.2 fun m => ?_
    have hm := windowKept_iff.1 hw m
    by_cases hmn : m = n
    · subst hmn
      obtain ⟨-, -, -, h8, hr⟩ := hm
      refine (windowOf_of_closed ((h.isOpen m).trans hn)).2 ⟨owed_eq_nil.2 fun t => ⟨hempty (.runControl t), hempty (.access t)⟩, ?_,
        fun r hmem => (hr r (h.routed m ▸ hmem)).1⟩
      exact h.places m hn (le_trans (Nat.le_add_right _ _) h8)
    · refine h.windowOf ?_
      have hsess : (s.closedFor n).session m = s.session m := by
        simp [closedFor, session, modSession, Quad.get_modify_of_ne _ hmn]
      have htags : (s.closedFor n).tags m = s.tags m := by simp [tags, hsess]
      have hopen : (s.closedFor n).isOpen m = s.isOpen m := by simp [State.isOpen, hsess]
      have hout : (s.closedFor n).outstanding m = s.outstanding m := congrArg List.length htags
      have hwo : (s.closedFor n).windowOpen m = s.windowOpen m := by
        rw [Bool.eq_iff_iff, windowOpen_iff, windowOpen_iff, hout]
        rfl
      unfold State.windowOf at hm ⊢
      rw [htags, hout, hopen, hwo]
      exact hm

/-- OPEN is refused, or a record opens. -/
theorem takeOpen_cases (s : State) (l : Index) (tag role lease : Byte) :
    s.Orderly (s.takeOpen l tag role lease) ∨ (s.isOpen l = false ∧ ∃ r resp, s.takeOpen l tag role lease =
      ((s.modSession l fun x => { x with current := some (newSession r lease) }).modNotice l fun q => { q with nextSeq := 0 }).respondNow l
        resp) := by
  have h := Orderly.refl s
  unfold takeOpen
  split
  · exact .inl (h.respondNow l _)
  · rename_i hnone
    split
    · exact .inl (h.respondPlain l tag _ _)
    · split
      · exact .inl (h.respondPlain l tag _ _)
      · split
        · exact .inl (h.respondPlain l tag _ _)
        · split
          · exact .inl (h.respondNow l _)
          · exact .inr ⟨by simp [State.isOpen, hnone], _, _, rfl⟩

theorem takeOpen_keeps (s : State) (l : Index) (tag role lease : Byte) : s.Keeps (s.takeOpen l tag role lease) := by
  rcases s.takeOpen_cases l tag role lease with h | ⟨hclosed, r, resp, heq⟩
  · exact h.keeps
  · rw [heq]
    refine Keeps.trans (x := (s.modSession l fun x => { x with current := some (newSession r lease) }).modNotice l
      fun q => { q with nextSeq := 0 }) ⟨fun hk => ?_, fun hb => hb⟩ ((Orderly.refl _).respondNow l resp).keeps
    rw [noticesKept_iff] at hk ⊢
    intro m
    obtain ⟨hq, hm⟩ := hk m
    by_cases hml : m = l
    · subst hml
      rw [modNotice_notice_self]
      exact ⟨NoticeQueue.kept_of_empty (hm hclosed), fun _ => hm hclosed⟩
    · rw [modNotice_notice_of_ne _ _ hml]
      refine ⟨hq, fun ho => hm ?_⟩
      rw [← ho]
      simp [State.isOpen, modSession_session_of_ne s _ hml]

theorem windowKept_takeOpen {s : State} {l : Index} (hw : s.windowKept) (hidle : (s.link l).routed = none) (tag role lease : Byte) :
    (s.takeOpen l tag role lease).windowKept := by
  rcases s.takeOpen_cases l tag role lease with h | ⟨hclosed, r, resp, heq⟩
  · exact h.windowKept hw
  · rw [heq]
    refine ((Orderly.refl _).respondNow l resp).windowKept (windowKept_iff.2 fun m => ?_)
    have hm := windowKept_iff.1 hw m
    set y := (s.modSession l fun x => { x with current := some (newSession r lease) }).modNotice l fun q => { q with nextSeq := 0 } with hy
    by_cases hml : m = l
    · subst hml
      obtain ⟨howed, h8, -⟩ := (windowOf_of_closed hclosed).1 hm
      have htags : y.tags m = [] := by simp [hy, tags, newSession]
      have hout : y.outstanding m = 0 := by simp [outstanding, htags]
      refine ⟨?_, by simp [htags], by omega, by rw [hout]; exact h8, fun q hq => ?_⟩
      · rw [htags, show y.owed m = s.owed m from rfl, howed]
        exact List.Perm.refl _
      · rw [show y.link m = s.link m from rfl, hidle] at hq
        exact absurd hq (by simp)
    · have hsess : y.session m = s.session m := by simp [hy, modSession_session_of_ne s _ hml]
      have htags : y.tags m = s.tags m := by simp [tags, hsess]
      have hopen : y.isOpen m = s.isOpen m := by simp [State.isOpen, hsess]
      have hout : y.outstanding m = s.outstanding m := congrArg List.length htags
      have hwo : y.windowOpen m = s.windowOpen m := by
        rw [Bool.eq_iff_iff, windowOpen_iff, windowOpen_iff, hout]
        rfl
      unfold State.windowOf at hm ⊢
      rw [htags, hout, hopen, hwo]
      exact hm

end Sys2Proof.Machine.State
end

section
/-! PROOF. The way of a request from its bytes to its owner, and every command: queues and banks are kept (R128, R129, R130, R39, R40). -/

namespace Sys2Proof.Machine.State

/-! ### The way of a request to its owner, and the receiver -/

theorem atTarget_of {P : State → Prop} {s : State} (b : Byte) (f : Index → State → State) (h0 : P s) (h : ∀ t, P (f t s)) :
    P (s.atTarget b f) := by
  unfold atTarget
  split
  · exact h _
  · exact h0

theorem ownerTake_keeps (s : State) (l : Index) (tag : Byte) (q : Request) (cond : Option DataCond) :
    s.Keeps (s.ownerTake l tag q cond) := by
  have h := Orderly.refl s
  have hat (b : Byte) (f : Index → State → State) (hf : ∀ t, s.Keeps (f t s)) : s.Keeps (s.atTarget b f) :=
    atTarget_of b f (.refl s) hf
  cases q with
  | openSession role lease => exact s.takeOpen_keeps l tag role lease
  | close => exact Keeps.trans (h.respondNow l _).keeps (endSession_keeps _ l .close)
  | ping => exact (h.takePing l tag).keeps
  | halt b e => exact hat b _ fun t => (s.tidy_takeHalt l tag t e).keeps
  | resume b e => exact hat b _ fun t => (s.tidy_takeResume l tag t e).keeps
  | step b count => exact hat b _ fun t => (s.tidy_takeStep l tag t count).keeps
  | status b => exact hat b _ fun t => (h.takeStatus l t tag).keeps
  | lock b => exact hat b _ fun t => (h.takeLock l t tag).keeps
  | unlock b => exact hat b _ fun t => (h.takeUnlock l t tag).keeps
  | frel b => exact hat b _ fun t => (h.takeFrel l t tag).keeps
  | setbrk b mode a m p => exact hat b _ fun t => (h.takeSetbrk l t tag mode a m p cond).keeps
  | setbrkData v m => exact .refl s
  | clrbrk k => exact (h.takeClrbrk l tag k).keeps
  | qbrk k part => exact (h.takeQbrk l tag k part).keeps
  | read b space loc =>
    refine hat b _ fun t => ?_
    unfold State.takeRead
    split
    · exact (h.respondPlain l tag _ _).keeps
    · exact (s.tidy_addAccess l tag t _ _ loc).keeps
  | write b space loc d =>
    refine hat b _ fun t => ?_
    unfold State.takeWrite
    split
    · exact (h.respondPlain l tag _ _).keeps
    · exact (s.tidy_addAccess l tag t _ _ loc).keeps
  | ack seq => exact (h.takeAck l tag seq).keeps
  | replay => exact (h.takeReplay l tag).keeps
  | watch mask => exact (h.takeWatch l tag mask).keeps
  | configRead b item => exact hat b _ fun t => (h.takeConfigRead l t tag item).keeps
  | configSet b item value => exact hat b _ fun t => (h.takeConfigSet l t tag item value).keeps
  | treset b =>
    refine hat b _ fun t => ?_
    exact .choice (h.respondPlain l tag _ _).keeps (.choice (h.respondPlain l tag _ _).keeps
      ((Tidy.refl s).joinWindow l tag |>.trans (tidy_beginReset _ l tag t)).keeps)

theorem takeRouted_keeps (s : State) (l : Index) : s.Keeps (s.takeRouted l) := by
  unfold takeRouted
  split
  · exact .refl s
  · exact .choice (.modLink s l _) (Keeps.trans (.modLink s l _) (ownerTake_keeps _ l _ _ _))

/-- The model's schedule is read. -/
theorem Orderly.sched {s x : State} (h : s.Orderly x) (d : Schedule) : s.Orderly { x with sched := d } :=
  h.trans (.of_table rfl rfl rfl (fun _ => rfl) (fun _ => rfl) id)

theorem deliver_keeps (s : State) (l : Index) (tag : Byte) (q : Request) (cond : Option DataCond) : s.Keeps (s.deliver l tag q cond) := by
  have h1 := Keeps.modLink s l fun u => { u with routed := some { tag, request := q, cond, inSession := s.isOpen l } }
  unfold deliver
  split
  · exact h1.trans (takeRouted_keeps _ l)
  · have h2 := fun d => h1.trans ((Orderly.refl _).sched d).keeps
    exact .choice (h2 _) ((h2 _).trans (takeRouted_keeps _ l))

theorem handOver_keeps (s : State) (l : Index) (tag : Byte) (q : Request) (cond : Option DataCond) : s.Keeps (s.handOver l tag q cond) :=
  .choice ((Orderly.refl s).respondPlain l tag _ _).keeps (s.deliver_keeps l tag q cond)

/-- What routing can do: the request is answered at once, or handed over with the pending data condition set aside. -/
theorem route_cases (s : State) (l : Index) (tag : Byte) (q : Request) :
    s.Orderly (s.route l tag q) ∨ ∃ x cond, s.Orderly x ∧ s.route l tag q = x.handOver l tag q cond := by
  have h := Orderly.refl s
  have hdata (d : Option DataCond) : s.Orderly (s.modLink l fun u => { u with pendingData := d }) := h.modLink l _ rfl rfl
  cases q with
  | setbrkData v m => exact .inl ((hdata _).respondPlain l tag _ _)
  | setbrk b mode a m p =>
    unfold route
    simp only
    split
    · split
      · exact .inr ⟨_, _, hdata none, rfl⟩
      · exact .inl ((hdata none).respondPlain l tag _ _)
    · exact .inr ⟨_, _, hdata none, rfl⟩
  | _ => exact .inr ⟨s, none, h, rfl⟩

theorem route_keeps (s : State) (l : Index) (tag : Byte) (q : Request) : s.Keeps (s.route l tag q) := by
  rcases s.route_cases l tag q with h | ⟨x, cond, h, heq⟩
  · exact h.keeps
  · exact heq ▸ h.keeps.trans (x.handOver_keeps l tag q cond)

/-- A request is refused at once, or routed having passed the checks of R158. -/
theorem checkRequest_cases (s : State) (l : Index) (tag kind toh : Byte) (ops : List Byte) :
    s.Orderly (s.checkRequest l tag kind toh ops) ∨ ∃ q, Request.parse kind toh ops = some q ∧ (s.isOpen l = false → kind = 0x01) ∧
      tag ∉ s.tags l ∧ (kind ∈ Request.deferredKinds → s.windowOpen l) ∧ s.checkRequest l tag kind toh ops = s.route l tag q := by
  have h (st : Status) := (Orderly.refl s).respondPlain l tag kind st
  unfold checkRequest
  split
  · exact .inl (h _)
  split
  · exact .inl (h _)
  rename_i hopen
  split
  · exact .inl (h _)
  rename_i htag
  split
  · exact .inl (h _)
  rename_i hwindow
  split
  · exact .inl (h _)
  · rename_i q hparse
    refine .inr ⟨q, hparse, fun hclosed => ?_, by simpa using htag, fun hk => ?_, rfl⟩
    · simpa [hclosed] using hopen
    · simpa [hk] using hwindow

theorem checkRequest_keeps (s : State) (l : Index) (tag kind toh : Byte) (ops : List Byte) :
    s.Keeps (s.checkRequest l tag kind toh ops) := by
  rcases s.checkRequest_cases l tag kind toh ops with h | ⟨q, -, -, -, -, heq⟩
  · exact h.keeps
  · exact heq ▸ s.route_keeps l tag q

namespace Orderly

variable {s x : State} (h : s.Orderly x) (l : Index)

include h

theorem restartLease : s.Orderly (x.restartLease l) := h.modOpen l _

/-- The link's good frame is counted and its session's lease restarted. -/
theorem goodFrameBase : s.Orderly ((x.modLink l fun u => { u with badFrames := 0 }).restartLease l) :=
  (h.modLink l _ rfl rfl).restartLease l

theorem discardFrame : s.Orderly (x.discardFrame l) := by
  refine (h.modLink l _ ?_ ?_).linkFault l <;> unfold afterDiscard <;> split <;> rfl

end Orderly

theorem goodFrame_keeps (s : State) (l : Index) (body : List Byte) : s.Keeps (s.goodFrame l body) := by
  unfold goodFrame
  split
  · exact ((Orderly.refl s).goodFrameBase l).keeps.trans (checkRequest_keeps _ l _ _ _ _)
  · exact .refl s

theorem endFrame_keeps (s : State) (l : Index) (n : Byte) (body : List Byte) (check : Byte) : s.Keeps (s.endFrame l n body check) := by
  have h1 := (Keeps.modLink s l fun u => { u with rx := .idle, gapTimer := none }).trans (takeRouted_keeps _ l)
  exact .choice (h1.trans (goodFrame_keeps _ l body)) (h1.trans ((Orderly.refl _).discardFrame l).keeps)

/-- A byte changes the receiver alone, discards a frame, or ends one. -/
theorem receiveByte_cases (s : State) (l : Index) (b : Byte) :
    s.Orderly (s.receiveByte l b) ∨ ∃ n body, s.receiveByte l b = s.endFrame l n body b := by
  have h := Orderly.refl s
  unfold receiveByte
  split
  · exact .inl (.choice (h.modLink l _ rfl rfl) h)
  · rename_i got _
    unfold gatherByte
    split
    · exact .inl (.choice (h.discardFrame l) (h.modLink l _ rfl rfl))
    · split
      · exact .inr ⟨_, _, rfl⟩
      · exact .inl (h.modLink l _ rfl rfl)
  · exact .inl (h.modLink l _ rfl rfl)

theorem receiveByte_keeps (s : State) (l : Index) (b : Byte) : s.Keeps (s.receiveByte l b) := by
  rcases s.receiveByte_cases l b with h | ⟨n, body, heq⟩
  · exact h.keeps
  · exact heq ▸ s.endFrame_keeps l n body b

/-! ### Every command -/

/-- Bytes arriving on a link, one after another. -/
def receiveBytes (s : State) (l : Index) (bs : List Byte) : State := bs.foldl (receiveByte l) s

theorem receiveBytes_of {P : State → Prop} (l : Index) (hstep : ∀ s b, P s → P (s.receiveByte l b)) (bs : List Byte) {s : State} (h : P s) :
    P (s.receiveBytes l bs) := by
  induction bs generalizing s with
  | nil => exact h
  | cons b bs ih => exact ih (hstep s b h)

namespace Orderly

variable {s x : State} (h : s.Orderly x)

include h

theorem gapExpires (l : Index) : s.Orderly (x.gapExpires l) := choice (h.discardFrame l) h

theorem huntIdleExpires (l : Index) : s.Orderly (x.huntIdleExpires l) := choice (h.modLink l _ rfl rfl) h

theorem frameEnds (l : Index) : s.Orderly (x.frameEnds l) := by
  unfold State.frameEnds
  split
  · exact h
  · exact (h.shrinkLink l _ (List.tail_sublist _).length_le rfl).arbitrate l
  · exact (h.modLink l _ rfl rfl).arbitrate l

/-- The Link Unit at a link break (R147). -/
theorem breakBase (l : Index) : s.Orderly (x.modLink l fun u =>
    { u with rx := .idle, badFrames := 0, gapTimer := none, idleTimer := none, pendingData := none, respQ := inTransmission u }) := by
  refine h.shrinkLink l _ ?_ rfl
  unfold inTransmission
  split
  · exact (List.take_sublist _ _).length_le
  · exact Nat.zero_le _
  · exact Nat.zero_le _

end Orderly

/-- All that a command can do: bytes of a link, a session end, a hub reset, or an operation that is orderly. -/
theorem exec_cases {c : Instr} {s s' : State} (h : exec c s = .next s') :
    (∃ l bs, s' = s.receiveBytes l bs) ∨ (∃ l, s' = s.breakDetected l) ∨ (∃ l, s' = s.leaseExpires l) ∨
      (∃ straps, s' = s.resetHub straps) ∨
      s.Orderly s' := by
  have ho := Orderly.refl s
  have horderly {y : State} (hy : s.Orderly y) (heq : Host.Outcome.next y = (.next s' : Host.Outcome State Fault Refusal)) :
      (∃ l bs, s' = s.receiveBytes l bs) ∨ (∃ l, s' = s.breakDetected l) ∨ (∃ l, s' = s.leaseExpires l) ∨
        (∃ straps, s' = s.resetHub straps) ∨ s.Orderly s' := by
    cases heq
    exact .inr (.inr (.inr (.inr hy)))
  cases c with
  | receivedByte l b => cases h; exact .inl ⟨l, [b], rfl⟩
  | interByteGapExpiry l => exact horderly (ho.gapExpires l) h
  | huntIdleExpiry l => exact horderly (ho.huntIdleExpires l) h
  | linkBreak l => cases h; exact .inr (.inl ⟨l, rfl⟩)
  | frameSent l => exact horderly (ho.frameEnds l) h
  | leaseExpiry l => cases h; exact .inr (.inr (.inl ⟨l, rfl⟩))
  | hubReset straps => cases h; exact .inr (.inr (.inr (.inl ⟨straps, rfl⟩)))
  | presentRise t => exact horderly (ho.presentRises t) h
  | presentFall t => exact horderly (ho.presentFalls t) h
  | haltedReport t flags pc check => exact horderly (ho.arrives _ _ (ho.takeHalted t flags pc)) h
  | runningReport t check => exact horderly (ho.arrives _ _ (ho.takeRunning t)) h
  | svcGrant t check => exact horderly (ho.arrives _ _ (ho.takeGrant t)) h
  | accReply t number result data check => exact horderly (ho.arrives _ _ (ho.takeReply t number result data)) h
  | ref t kind address data check => exact horderly (ho.arrives _ _ (ho.takeRefMsg t kind address data)) h
  | stopTimerExpiry t => exact horderly (ho.takeStopTimeout t) h
  | runTimerExpiry t => exact horderly (ho.takeRunTimeout t) h
  | grantTimerExpiry t => exact horderly (ho.takeGrantTimeout t) h
  | exchangeTimerExpiry t => exact horderly (ho.takeExchangeTimeout t) h
  | resetHoldExpiry t => exact horderly (ho.takeResetHold t) h
  | slotBegin t => exact horderly (ho.slotBegins t) h
  | _ => cases h; exact .inl ⟨_, _, rfl⟩

theorem attachEach (ts : List Index) : ∀ {s x : State}, s.Orderly x → s.Orderly (ts.foldl attachIfPresent x) := by
  induction ts with
  | nil => exact fun h => h
  | cons t ts ih => exact fun h => ih (.choice (h.attach t) h)

theorem bank_afterReset (straps : Quad Straps) (s : State) (t c : Index) : ((s.afterReset straps).bank t).get c = .free := by
  simp [afterReset, bank, target, Target.reset]

theorem resetHub_keeps (straps : Quad Straps) (s : State) : s.Keeps (s.resetHub straps) := by
  have h := attachEach indices (Orderly.refl (s.afterReset straps))
  refine ⟨fun _ => h.toTidy.noticesKept (noticesKept_iff.2 fun n => ?_), fun _ => h.banks ?_⟩
  · have hempty : ((s.afterReset straps).notice n).entries = [] := by simp [afterReset, notice, NoticeQueue.reset]
    exact ⟨NoticeQueue.kept_of_empty hempty, fun _ => hempty⟩
  · refine ⟨List.Pairwise.nil, fun x hx => absurd hx List.not_mem_nil, fun t c => ?_⟩
    rw [bank_afterReset]
    simp [Comparator.free, afterReset]

/-- Every command keeps queues and banks. -/
theorem exec_keeps {c : Instr} {s s' : State} (h : exec c s = .next s') : s.Keeps s' := by
  rcases exec_cases h with ⟨l, bs, rfl⟩ | ⟨l, rfl⟩ | ⟨l, rfl⟩ | ⟨straps, rfl⟩ | horderly
  · exact receiveBytes_of (P := s.Keeps) l (fun x b hx => hx.trans (x.receiveByte_keeps l b)) bs (.refl s)
  · exact ((Orderly.refl s).breakBase l).keeps.trans (endSession_keeps _ l .linkBreak)
  · exact .choice (endSession_keeps s l .lease) (.refl s)
  · exact s.resetHub_keeps straps
  · exact horderly.keeps

end Sys2Proof.Machine.State

namespace Sys2Proof

open Machine

/-- Settles O57: every operation hands notices to a queue by R130 alone, takes the oldest out, or empties it. -/
theorem stepKeepsNotices : Obligations.StepKeepsNotices := by
  unfold Obligations.StepKeepsNotices
  exact fun s s' hk hs => step_keeps (P := State.noticesKept) (fun _ _ h => h) (fun _ _ _ h he => (State.exec_keeps he).notices h)
    (fun l s h => (s.takeRouted_keeps l).notices h) hk hs

/-- Settles O59: the table and the banks change together, at a binding, a deletion and a count alone. -/
theorem stepKeepsBanks : Obligations.StepKeepsBanks := by
  unfold Obligations.StepKeepsBanks
  exact fun s s' hk hs => step_keeps (P := State.banksKept) (fun _ _ h => h) (fun _ _ _ h he => (State.exec_keeps he).banks h)
    (fun l s h => (s.takeRouted_keeps l).banks h) hk hs

end Sys2Proof
end

section
/-! PROOF. What coherence reads of a target, as a small record, and how every shared operation on a target changes that record. -/

namespace Sys2Proof.Machine

/-- What coherence reads of a target: link state and lines, the outstanding message, the run state, whether the STEP of a sequence is
outstanding, the phase of a reset and whether its timer runs, whether somebody holds, the release deferral, the access entries' marks, the
exchange and the batch count. -/
structure Look where
  link : LinkState
  present : Bool
  enable : Bool
  out : Option RcMsg
  run : RunState
  seq : Option Bool
  reset : Option ResetPhase
  timer : Bool
  held : Bool
  relDefer : Bool
  flying : List Bool
  exchanging : Bool
  batch : Nat

def Target.look (x : Target) : Look where
  link := x.port.link
  present := x.port.present
  enable := x.cfg.portEnable
  out := x.port.outstanding.map (·.msg)
  run := x.rc.run
  seq := x.rc.stepSeq.map (·.outstanding)
  reset := x.rc.resetRec.map (·.phase)
  timer := x.rc.resetTimer.isSome
  held := !x.rc.hold.isEmpty
  relDefer := x.rc.relDefer
  flying := x.acc.queue.map (·.inFlight)
  exchanging := x.acc.exchange.isSome
  batch := x.acc.batch

namespace Look

/-- An access exchange is in flight. -/
def inFlight (l : Look) : Bool :=
  match l.flying with
  | b :: _ => b
  | [] => false

/-- The outstanding message that the run state gives (Table 1-2, R174). -/
def outFits (l : Look) : Prop :=
  match l.run with
  | .detached => l.out = if l.link = .probing then some .probe else none
  | .running => l.out = none
  | .stopping => l.out = some .stop ∨ l.out = some .svcExitHold
  | .halted => l.out = none
  | .releasing => l.out = some .run
  | .stepping => l.out = if l.seq.getD false then some .step else none
  | .svcPending => l.out = some .svcReq
  | .service => l.out = none
  | .unresponsive => l.out = none
  | .resetting => l.out = match l.reset with
    | some (.released f) => some (.rstOff f)
    | _ => none

/-- The look after a release (R7). -/
def released (l : Look) : Look :=
  if l.inFlight then { l with relDefer := true } else { l with out := some .run, relDefer := false, run := .releasing }

/-- The look after an entry to HALTED, which releases a target that nobody holds (R15). -/
def halted (l : Look) : Look := if l.held then { l with run := .halted } else { l with run := .halted }.released

/-- `coherent` but for what a release or an examination has still to do: `relFits` and `serviceFits`. -/
structure Sound (l : Look) : Prop where
  disabled : l.link = .disabled ↔ l.enable = false
  absent : l.link = .absent → l.present = false
  attached : l.link = .probing ∨ l.link = .active → l.present = true
  detached : l.run = .detached ↔ l.link ≠ .active
  seq : l.seq.isSome ↔ l.run = .stepping
  reset : l.reset.isSome ↔ l.run = .resetting
  timer : l.timer = true ↔ l.reset = some .holding
  out : l.outFits
  unheld : l.run = .running ∨ l.run = .svcPending → l.held = false
  deferred : l.relDefer = true → l.run = .halted
  short : l.flying.length ≤ 8
  exchanging : l.exchanging = true ↔ l.inFlight = true
  waiting : ∀ b ∈ l.flying.tail, b = false
  pending : l.run = .svcPending → l.inFlight = false
  batch : l.batch ≤ 4

/-- A HALTED target that nobody holds has its release deferred. -/
def relFits (l : Look) : Prop := l.run = .halted → l.held = false → l.relDefer = true

/-- In SERVICE an access in flight leaves room in the batch. -/
def batchFits (l : Look) : Prop := l.run = .service → l.inFlight = true → l.batch < 4

/-- In SERVICE an access is in flight. -/
def serves (l : Look) : Prop := l.run = .service → l.inFlight = true

/-- What an examination finds. -/
structure Ready (l : Look) : Prop extends Sound l where
  rel : l.relFits
  room : l.batchFits

/-- The whole of `coherent`. -/
structure Fits (l : Look) : Prop extends Ready l where
  serves : l.serves

end Look

theorem Target.look_inFlight (x : Target) : x.look.inFlight = x.acc.inFlight := by
  unfold Look.inFlight AccessEngine.inFlight Target.look
  cases x.acc.queue <;> rfl

theorem Target.look_outFits (x : Target) : x.look.outFits ↔ State.outstandingFits x := by
  unfold Look.outFits State.outstandingFits Target.look
  cases x.rc.run <;> rfl

theorem Target.coherent_iff (x : Target) : State.coherent x ↔ x.look.Fits := by
  have hfly : x.look.inFlight = x.acc.inFlight := x.look_inFlight
  have hheld : x.look.held = false ↔ x.rc.hold.isEmpty = true := by simp [Target.look]
  have hseq : x.look.seq.isSome = x.rc.stepSeq.isSome := by simp [Target.look]
  have hreset : x.look.reset.isSome = x.rc.resetRec.isSome := by simp [Target.look]
  have htail : (∀ b ∈ x.look.flying.tail, b = false) ↔ ∀ e ∈ x.acc.queue.tail, e.inFlight = false := by
    simp [Target.look, ← List.map_tail]
  have hshort : x.look.flying.length = x.acc.queue.length := by simp [Target.look]
  constructor
  · rintro ⟨h1, h2, h3, h4, h5, h6, h7, h8, h9, h10, h11, h12, h13, h14, h15, h16, h17⟩
    refine ⟨⟨⟨h1, h2, h3, h4, hseq ▸ h5, hreset ▸ h6, h7, x.look_outFits.2 h8, fun h => hheld.2 (h9 h), h10, hshort ▸ h12, hfly ▸ h13,
      htail.2 h14, fun h => ?_, h17⟩, fun h he => h11 h (hheld.1 he), fun h _ => (h16 h).2⟩, fun h => hfly ▸ (h16 h).1⟩
    simpa [hfly] using h15 h
  · rintro ⟨⟨⟨h1, h2, h3, h4, h5, h6, h7, h8, h9, h10, h11, h12, h13, h14, h15⟩, hrel, hroom⟩, hserves⟩
    refine ⟨h1, h2, h3, h4, hseq ▸ h5, hreset ▸ h6, h7, x.look_outFits.1 h8, fun h => hheld.1 (h9 h), h10, fun h he => hrel h (hheld.2 he),
      hshort ▸ h11, hfly ▸ h12, htail.1 h13, fun h => ?_, fun h => ⟨hfly ▸ hserves h, hroom h (hserves h)⟩, h15⟩
    simpa [hfly] using h14 h

namespace State

theorem targetsCoherent_iff {s : State} : s.targetsCoherent ↔ ∀ t, (s.target t).look.Fits :=
  forall_congr' fun t => (s.target t).coherent_iff

/-- From `s` to `s'` the look of `t` becomes `l`, and every other target looks as before. -/
structure Moves (s : State) (t : Index) (s' : State) (l : Look) : Prop where
  here : (s'.target t).look = l
  others : ∀ u, u ≠ t → (s'.target u).look = (s.target u).look

theorem Moves.refl (s : State) (t : Index) : s.Moves t s (s.target t).look := ⟨rfl, fun _ _ => rfl⟩

/-- A target that fits keeps all targets coherent. -/
theorem Moves.coherent {s s' : State} {t : Index} {l : Look} (h : s.Moves t s' l) (hs : s.targetsCoherent) (hl : l.Fits) :
    s'.targetsCoherent := by
  rw [targetsCoherent_iff] at hs ⊢
  intro u
  by_cases hu : u = t
  · subst hu; rw [h.here]; exact hl
  · rw [h.others u hu]; exact hs u

/-- Every target looks as before. -/
def looksAs (s s' : State) : Prop := ∀ t, (s'.target t).look = (s.target t).look

theorem looksAs.coherent {s s' : State} (h : s.looksAs s') (hs : s.targetsCoherent) : s'.targetsCoherent := by
  rw [targetsCoherent_iff] at hs ⊢
  exact fun t => h t ▸ hs t

theorem looksAs_of_mute {s s' : State} (h : s'.mute = s.mute) : s.looksAs s' := fun t => by
  rw [target, (parts_of_mute h).2.2.1]
  rfl

namespace Moves

variable {s x y : State} {t : Index} {l l' : Look}

theorem looksAs (h : s.Moves t x l) (hy : x.looksAs y) : s.Moves t y l :=
  ⟨(hy t).trans h.here, fun u hu => (hy u).trans (h.others u hu)⟩

theorem of_mute (h : s.Moves t x l) (hm : y.mute = x.mute) : s.Moves t y l := h.looksAs (looksAs_of_mute hm)

theorem trans (h : s.Moves t x l) (h' : x.Moves t y l') : s.Moves t y l' :=
  ⟨h'.here, fun u hu => (h'.others u hu).trans (h.others u hu)⟩

theorem leaves (h : s.Moves t x l) (rs : List Answer) : s.Moves t (x.leaves rs) l :=
  h.looksAs fun u => by rw [target, leaves_targets]; rfl

theorem modTarget (h : s.Moves t x l) (f : Target → Target) (hf : (f (x.target t)).look = l') : s.Moves t (x.modTarget t f) l' :=
  ⟨by rw [modTarget_target_self, hf], fun u hu => by rw [modTarget_target_of_ne x f hu]; exact h.others u hu⟩

/-- A change of one part of the target, by the change of look `g` that it makes. -/
theorem modRc (h : s.Moves t x l) (f : RunControl → RunControl) (g : Look → Look)
    (hf : ∀ y : Target, ({ y with rc := f y.rc } : Target).look = g y.look := by intro; rfl) : s.Moves t (x.modRc t f) (g l) :=
  h.modTarget _ (by rw [← h.here]; exact hf _)

theorem modPort (h : s.Moves t x l) (f : Port → Port) (g : Look → Look)
    (hf : ∀ y : Target, ({ y with port := f y.port } : Target).look = g y.look := by intro; rfl) : s.Moves t (x.modPort t f) (g l) :=
  h.modTarget _ (by rw [← h.here]; exact hf _)

theorem modAcc (h : s.Moves t x l) (f : AccessEngine → AccessEngine) (g : Look → Look)
    (hf : ∀ y : Target, ({ y with acc := f y.acc } : Target).look = g y.look := by intro; rfl) : s.Moves t (x.modAcc t f) (g l) :=
  h.modTarget _ (by rw [← h.here]; exact hf _)

theorem modCfg (h : s.Moves t x l) (f : PortConfig → PortConfig) (g : Look → Look)
    (hf : ∀ y : Target, ({ y with cfg := f y.cfg } : Target).look = g y.look := by intro; rfl) : s.Moves t (x.modCfg t f) (g l) :=
  h.modTarget _ (by rw [← h.here]; exact hf _)

/-- What the target's parts say of its look. -/
theorem inFlight_eq (h : s.Moves t x l) : (x.acc t).inFlight = l.inFlight := by
  rw [← h.here, Target.look_inFlight]
  rfl

theorem held_eq (h : s.Moves t x l) : (x.rc t).hold.isEmpty = !l.held := by
  rw [← h.here]
  simp [Target.look, rc]

theorem run_eq (h : s.Moves t x l) : (x.rc t).run = l.run := by
  rw [← h.here]
  rfl

theorem seq_eq (h : s.Moves t x l) : (x.rc t).stepSeq.map (·.outstanding) = l.seq := by
  rw [← h.here]
  rfl

theorem reset_eq (h : s.Moves t x l) : (x.rc t).resetRec.map (·.phase) = l.reset := by
  rw [← h.here]
  rfl

theorem flying_eq (h : s.Moves t x l) : (x.acc t).queue.map (·.inFlight) = l.flying := by
  rw [← h.here]
  rfl

theorem link_eq (h : s.Moves t x l) : (x.port t).link = l.link := by
  rw [← h.here]
  rfl

variable (h : s.Moves t x l)

include h

/-! ### Messages and run states -/

theorem notifyState (u : Index) : s.Moves t (x.notifyState u) l := h.of_mute (mute_notifyState x u)

theorem respondNow (n : Index) (r : Response) : s.Moves t (x.respondNow n r) l := h.of_mute (mute_respondNow x n r)

theorem hand (m : PortMsg) : s.Moves t (x.hand t m) l :=
  h.modPort _ id fun y => by
    cases m with
    | attn k => dsimp only; split <;> rfl
    | _ => rfl

theorem handRc (m : RcMsg) : s.Moves t (x.handRc t m) { l with out := some m } :=
  (h.modPort _ fun l => { l with out := some m }).hand m.msg

theorem clearOutstanding : s.Moves t (x.clearOutstanding t) { l with out := none } := h.modPort _ fun l => { l with out := none }

theorem cancelService : s.Moves t (x.cancelService t) { l with out := none } := h.clearOutstanding.hand _

theorem sendWatch : s.Moves t (x.sendWatch t) l := (h.hand _).modPort _ id

theorem setRun (r : RunState) : s.Moves t (x.setRun t r) { l with run := r } :=
  Moves.notifyState (h.modRc _ fun l => { l with run := r }) t

theorem setStopCause (c : StopCause) : s.Moves t (x.setStopCause t c) l := h.modRc _ id

theorem stop : s.Moves t (x.stop t) { l with out := some .stop, relDefer := false, run := .stopping } :=
  (((h.handRc .stop).setStopCause (x.rc t).hold.stopCause).modRc _ fun l => { l with relDefer := false }).setRun .stopping

/-- A release: made, or deferred while an access is in flight (R7). -/
theorem release : s.Moves t (x.release t) l.released := by
  unfold State.release Look.released
  rw [h.inFlight_eq]
  split
  · exact h.modRc _ fun l => { l with relDefer := true }
  · exact ((h.handRc .run).modRc _ fun l => { l with relDefer := false }).setRun .releasing

theorem afterHoldChange : s.Moves t (x.afterHoldChange t) (if l.held then l else l.released) := by
  unfold State.afterHoldChange
  rw [h.held_eq]
  by_cases hh : l.held = true
  · rw [if_neg (by simp [hh]), if_pos hh]
    exact h.notifyState t
  · rw [if_pos (by simp [hh]), if_neg hh]
    split
    · exact h.release.notifyState t
    · exact h.release

theorem exitHold : s.Moves t (x.exitHold t) { l with out := some .svcExitHold, run := .stopping } := (h.handRc _).setRun _

theorem beginService : s.Moves t (x.beginService t) { l with out := some .svcReq, run := .svcPending } := (h.handRc _).setRun _

/-! ### Answers and records -/

theorem answerWaiters (p : Waiter → Bool) (st : Status) : s.Moves t (x.answerWaiters t p st) l :=
  ((h.leaves _).modRc _ id).of_mute (x.answerWaiters_does t p st).mute

theorem answerAll (st : Status) : s.Moves t (x.answerAll t st) l := h.answerWaiters _ st

theorem answerResumes : s.Moves t (x.answerResumes t) l := h.answerWaiters _ _

theorem answerHalts : s.Moves t (x.answerHalts t) l := h.answerWaiters _ _

theorem abortHalts (p : Index → Bool) : s.Moves t (x.abortHalts t p) l := h.answerWaiters _ _

theorem failSeq (st : Status) : s.Moves t (x.failSeq t st) { l with seq := none } :=
  ((h.leaves _).modRc _ fun l => { l with seq := none }).of_mute (x.failSeq_does t st).mute

/-- The end of a reset clears its record and its timer. -/
theorem endReset (st : Status) (payload : List Byte) :
    s.Moves t (x.endReset t st payload) { l with reset := none, timer := l.timer && l.reset.isNone } := by
  refine ((h.leaves _).modRc _ (fun l => { l with reset := none, timer := l.timer && l.reset.isNone }) fun y => ?_).of_mute
    (x.endReset_does t st payload).mute
  unfold Target.look
  cases y.rc.resetRec <;> simp

theorem modSeq (f : StepSeq → StepSeq) (hf : ∀ q, (f q).outstanding = q.outstanding := by intro; rfl) : s.Moves t (x.modSeq t f) l :=
  h.modRc _ id fun y => by
    unfold Target.look
    simp [hf, Function.comp_def]

theorem sendStep : s.Moves t (x.sendStep t) { l with out := some .step, seq := l.seq.map fun _ => true } := by
  refine (h.handRc .step).modRc (fun r => { r with stepSeq := r.stepSeq.map fun q => { q with outstanding := true } })
    (fun l => { l with seq := l.seq.map fun _ => true }) fun y => ?_
  unfold Target.look
  simp [Function.comp_def]

/-! ### Entries -/

theorem enterHalted (c : HaltCause) : s.Moves t (x.enterHalted t c) l.halted := by
  have h1 := h.modRc (fun r => { r with run := .halted, haltCause := some c, stopCause := none }) fun l => { l with run := .halted }
  unfold State.enterHalted Look.halted
  simp only [h.held_eq]
  by_cases hh : l.held = true
  · rw [if_neg (by simp [hh]), if_pos hh]
    exact (h1.answerAll .ok).notifyState t
  · rw [if_pos (by simp [hh]), if_neg hh]
    exact (h1.answerHalts.notifyState t).release

theorem enterRunning : s.Moves t (x.enterRunning t) { l with run := .running, relDefer := false } :=
  ((h.modRc _ fun l => { l with run := .running, relDefer := false }).answerResumes).notifyState t

theorem exitResume : s.Moves t (x.exitResume t) { l with run := .running, relDefer := false } := (h.hand _).enterRunning

theorem enterUnresponsive : s.Moves t (x.enterUnresponsive t)
    { l with run := .unresponsive, reset := none, timer := l.timer && l.reset.isNone, seq := none, relDefer := false } :=
  ((((h.endReset _ _).answerAll _).failSeq _).modRc _ fun l => { l with relDefer := false }).setRun _

theorem endSeq (selfAdded : Bool) (hseq : l.seq ≠ none) : s.Moves t (x.endSeq t selfAdded) { l with seq := none }.halted := by
  cases hq : (x.rc t).stepSeq with
  | none => exact absurd (h.seq_eq.symm.trans (by rw [hq]; rfl)) hseq
  | some q =>
    unfold State.endSeq
    simp only [hq]
    rw [Orderly.respondStep_eq hq ⟨rfl, rfl, rfl, rfl⟩]
    exact (h.failSeq _).enterHalted _

theorem runOrStop : s.Moves t (x.runOrStop t)
    (if l.held then { l with out := some .stop, relDefer := false, run := .stopping } else { l with run := .running, relDefer := false }) := by
  unfold State.runOrStop
  rw [h.held_eq]
  by_cases hh : l.held = true
  · rw [if_neg (by simp [hh]), if_pos hh]
    exact h.stop
  · rw [if_pos (by simp [hh]), if_neg hh]
    exact h.enterRunning

/-! ### Accesses -/

theorem failHead (st : Status) : s.Moves t (x.failHead t st) { l with flying := l.flying.tail } := by
  cases hq : (x.acc t).queue with
  | nil =>
    rw [failHead_of_empty x t hq]
    have hl : l.flying = [] := by rw [← h.flying_eq, hq]; rfl
    have hsame : ({ l with flying := l.flying.tail } : Look) = l := by rw [hl, List.tail_nil, ← hl]
    rw [hsame]
    exact h
  | cons e rest =>
    have h1 : s.Moves t ((x.leaves (accessAnswer e st [])).modAcc t fun a => { a with queue := rest })
        { l with flying := l.flying.tail } := by
      refine (h.leaves _).modTarget _ ?_
      have hq' : (x.target t).acc.queue = e :: rest := hq
      have htarget : (x.leaves (accessAnswer e st [])).target t = x.target t := by rw [target, leaves_targets]; rfl
      rw [htarget, ← h.here]
      simp [Target.look, hq']
    exact h1.of_mute (x.failHead_does t hq st).mute

theorem setHead (e : AccEntry) : s.Moves t (x.setHead t e) { l with flying := e.inFlight :: l.flying.tail } :=
  h.modAcc (fun a => { a with queue := e :: a.queue.tail }) (fun l => { l with flying := e.inFlight :: l.flying.tail }) fun y => by
    simp [Target.look, List.map_tail]

theorem handAcc (op : AccOp) (ph : Phase) (e : AccEntry) : s.Moves t (x.handAcc t op ph e) { l with exchanging := true } := by
  have h2 := (h.modPort (fun p => { p with nextEx := (x.port t).nextEx + 1 }) id).modAcc
    (fun a => { a with exchange := some { number := (x.port t).nextEx, phase := ph, timer := (x.cfg t).exchange.toNat } })
    fun l => { l with exchanging := true }
  exact h2.hand (.acc (x.port t).nextEx op e.space e.location)

theorem startHead (hl : l.flying ≠ []) :
    s.Moves t (x.startHead t) { l with flying := true :: l.flying.tail, exchanging := true } := by
  cases hq : (x.acc t).queue with
  | nil => exact absurd (h.flying_eq.symm.trans (by rw [hq]; rfl)) hl
  | cons e rest =>
    unfold State.startHead
    simp only [hq]
    exact (h.setHead { e with inFlight := true }).handAcc _ _ e

theorem endAccess (st : Status) (payload : List Byte) (hl : l.flying ≠ []) : s.Moves t (x.endAccess t st payload)
    { l with flying := l.flying.tail, exchanging := false, batch := if l.run = .service then l.batch + 1 else l.batch } := by
  cases hq : (x.acc t).queue with
  | nil => exact absurd (h.flying_eq.symm.trans (by rw [hq]; rfl)) hl
  | cons e rest =>
    refine Moves.of_mute ?_ (x.endAccess_does t hq st payload).mute
    refine (h.leaves _).modTarget _ ?_
    have htarget : (x.leaves (accessAnswer e st payload)).target t = x.target t := by rw [target, leaves_targets]; rfl
    rw [htarget, h.run_eq, ← h.here]
    simp [Target.look, List.map_tail]

theorem failInFlight (st : Status) : s.Moves t (x.failInFlight t st)
    (if l.inFlight then { l with flying := l.flying.tail, exchanging := false } else l) := by
  unfold State.failInFlight
  rw [h.inFlight_eq]
  split
  · exact (h.modAcc _ fun l => { l with exchanging := false }).failHead st
  · exact h

theorem failAllAccesses (st : Status) : s.Moves t (x.failAllAccesses t st) { l with flying := [], exchanging := false } :=
  ((h.leaves _).modAcc _ fun l => { l with flying := [], exchanging := false }).of_mute (x.failAllAccesses_does t st).mute

end Moves

end State

end Sys2Proof.Machine
end

section
/-! PROOF. Which changes of look keep it sound, an examination, and the shared operations: each leaves every target coherent. -/

namespace Sys2Proof.Machine

namespace Look

/-- A change of the Run Control Unit and of the outstanding message that stays within one link state. -/
theorem Sound.change {l : Look} (h : l.Sound) {out : Option RcMsg} {run : RunState} {seq : Option Bool} {reset : Option ResetPhase}
    {timer held relDefer : Bool} (hrun : run = .detached ↔ l.run = .detached) (hseq : seq.isSome ↔ run = .stepping)
    (hreset : reset.isSome ↔ run = .resetting) (htimer : timer = true ↔ reset = some .holding)
    (hout : ({ l with out, run, seq, reset } : Look).outFits) (hheld : run = .running ∨ run = .svcPending → held = false)
    (hdefer : relDefer = true → run = .halted) (hpending : run = .svcPending → l.inFlight = false) :
    ({ l with out, run, seq, reset, timer, held, relDefer } : Look).Sound where
  disabled := h.disabled
  absent := h.absent
  attached := h.attached
  detached := hrun.trans h.detached
  seq := hseq
  reset := hreset
  timer := htimer
  out := hout
  unheld := hheld
  deferred := hdefer
  short := h.short
  exchanging := h.exchanging
  waiting := h.waiting
  pending := hpending
  batch := h.batch

/-- A change of the access queue and its exchange. -/
theorem Sound.access {l : Look} (h : l.Sound) {flying : List Bool} {exchanging : Bool} {batch : Nat} (hshort : flying.length ≤ 8)
    (hex : exchanging = true ↔ ({ l with flying } : Look).inFlight = true) (hwait : ∀ b ∈ flying.tail, b = false)
    (hpending : l.run = .svcPending → ({ l with flying } : Look).inFlight = false) (hbatch : batch ≤ 4) :
    ({ l with flying, exchanging, batch } : Look).Sound where
  disabled := h.disabled
  absent := h.absent
  attached := h.attached
  detached := h.detached
  seq := h.seq
  reset := h.reset
  timer := h.timer
  out := h.out
  unheld := h.unheld
  deferred := h.deferred
  short := hshort
  exchanging := hex
  waiting := hwait
  pending := hpending
  batch := hbatch

/-- No entry behind the head is in flight, and so the next head is not. -/
theorem Sound.tail_inFlight {l : Look} (h : l.Sound) : ({ l with flying := l.flying.tail } : Look).inFlight = false := by
  unfold inFlight
  cases hq : l.flying with
  | nil => rfl
  | cons b bs =>
    cases bs with
    | nil => rfl
    | cons c cs => exact h.waiting c (by simp [hq])

/-- The head has left the queue. -/
theorem Sound.dropHead {l : Look} (h : l.Sound) {batch : Nat} (hbatch : batch ≤ 4) :
    ({ l with flying := l.flying.tail, exchanging := false, batch } : Look).Sound := by
  refine h.access ((List.tail_sublist _).length_le.trans h.short) ?_ (fun b hb => h.waiting b ((List.tail_sublist _).subset hb))
    (fun _ => h.tail_inFlight) hbatch
  rw [h.tail_inFlight]

theorem Sound.seq_none {l : Look} (h : l.Sound) (hrun : l.run ≠ .stepping) : l.seq = none := by
  have := mt h.seq.1 hrun
  simpa using this

theorem Sound.reset_none {l : Look} (h : l.Sound) (hrun : l.run ≠ .resetting) : l.reset = none := by
  have := mt h.reset.1 hrun
  simpa using this

theorem Sound.timer_false {l : Look} (h : l.Sound) (hrun : l.run ≠ .resetting) : l.timer = false := by
  have hr := h.reset_none hrun
  have := h.timer
  simpa [hr] using this

theorem Sound.relDefer_false {l : Look} (h : l.Sound) (hrun : l.run ≠ .halted) : l.relDefer = false := by
  have := mt h.deferred hrun
  simpa using this

/-- A change to a run state without records of its own: neither STEPPING nor RESETTING, on either side. -/
theorem Sound.enter {l : Look} (h : l.Sound) {out : Option RcMsg} {run : RunState} {held relDefer : Bool}
    (hstep : l.run ≠ .stepping) (hres : l.run ≠ .resetting) (hdet : l.run ≠ .detached) (hstep' : run ≠ .stepping)
    (hres' : run ≠ .resetting) (hdet' : run ≠ .detached) (hout : ({ l with out, run } : Look).outFits)
    (hheld : run = .running ∨ run = .svcPending → held = false) (hdefer : relDefer = true → run = .halted)
    (hpending : run = .svcPending → l.inFlight = false) : ({ l with out, run, held, relDefer } : Look).Sound :=
  h.change (seq := l.seq) (reset := l.reset) (timer := l.timer) (by simp [hdet, hdet']) (by simp [h.seq_none hstep, hstep'])
    (by simp [h.reset_none hres, hres']) h.timer hout hheld hdefer hpending

/-- Neither HALTED nor SERVICE: an examination finds nothing else to ask for. -/
theorem Sound.ready {l : Look} (h : l.Sound) (hhalted : l.run ≠ .halted) (hservice : l.run ≠ .service) : l.Ready :=
  ⟨h, fun hr => absurd hr hhalted, fun hr => absurd hr hservice⟩

theorem Ready.fits {l : Look} (h : l.Ready) (hservice : l.run ≠ .service) : l.Fits := ⟨h, fun hr => absurd hr hservice⟩

/-- A HALTED target released, or its release deferred, where nobody holds it. -/
theorem Sound.released {l : Look} (h : l.Sound) (hrun : l.run = .halted) : l.released.Fits := by
  unfold Look.released
  split
  · rename_i hfly
    have hs : ({ l with relDefer := true } : Look).Sound :=
      h.change (out := l.out) (run := l.run) (seq := l.seq) (reset := l.reset) (timer := l.timer) (held := l.held) Iff.rfl h.seq h.reset
        h.timer h.out h.unheld (fun _ => hrun) h.pending
    exact (Ready.mk hs (fun _ _ => rfl) (fun hr => absurd hr (by simp [hrun]))).fits (by simp [hrun])
  · refine ((h.enter (out := some .run) (run := .releasing) (held := l.held) (relDefer := false) ?_ ?_ ?_ ?_ ?_ ?_ rfl ?_ ?_ ?_).ready ?_ ?_).fits ?_
    all_goals simp [hrun]

/-- An entry to HALTED, from what is sound there. -/
theorem Sound.halted {l : Look} (h : ({ l with run := .halted } : Look).Sound) : l.halted.Fits := by
  unfold Look.halted
  split
  · rename_i hheld
    exact (Ready.mk h (fun _ hno => by simp [hheld] at hno) (fun hr => absurd hr (by simp))).fits (by simp)
  · exact h.released rfl

end Look

/-! ### Examinations -/

/-- What a verdict says of the engine and of the unit (Table 4-3, R86). -/
theorem verdict_spec (r : RunControl) (a : AccessEngine) (intrusive : Bool) :
    match verdict r a intrusive with
    | .wait => a.inFlight = true ∨ r.run ≠ .service
    | .fail _ => a.inFlight = false ∧ r.run ≠ .service
    | .start => a.inFlight = false ∧ a.queue ≠ [] ∧ (r.run = .halted ∨ r.run = .service ∧ a.batch ≠ 4)
    | .beginService => a.inFlight = false ∧ r.run = .running
    | .exitHold => a.inFlight = false ∧ r.run = .service
    | .exitResume => a.inFlight = false ∧ r.run = .service ∧ r.hold.isEmpty = true := by
  unfold verdict
  by_cases hf : a.inFlight = true
  · simp [hf]
  · rw [if_neg hf]
    simp only [Bool.not_eq_true] at hf
    cases hr : r.run with
    | service =>
      simp only [verdictService, Config.maxBatch]
      by_cases h1 : r.hold.isEmpty = true
      · by_cases h2 : a.batch = 4
        · simp [h1, h2, hf]
        · cases hq : a.queue with
          | nil => simp [h1, h2, hf]
          | cons e es => by_cases h3 : (e.isWrite && r.lockedAgainst e.session) = true <;> simp [h1, h2, h3, hf]
      · simp [h1, hf]
    | halted =>
      cases hq : a.queue with
      | nil => simp
      | cons e es =>
        simp only [verdictHalted]
        split_ifs <;> simp [hf]
    | running =>
      cases hq : a.queue with
      | nil => simp
      | cons e es =>
        simp only [verdictRunning]
        split_ifs <;> simp [hf]
    | detached => cases hq : a.queue <;> simp [hf]
    | unresponsive => cases hq : a.queue <;> simp [hf]
    | _ => simp

namespace State

namespace Moves

variable {s x : State} {t : Index} {l : Look}

theorem queue_ne_nil (h : s.Moves t x l) (hq : (x.acc t).queue ≠ []) : l.flying ≠ [] := by
  rw [← h.flying_eq]
  simpa using hq

/-- An examination of what is ready leaves the target coherent. -/
theorem examineFor (k : Nat) : ∀ {x : State} {l : Look}, s.Moves t x l → l.Ready → (l.run = .service → k ≠ 0 ∨ l.inFlight = true) →
    ∃ l', s.Moves t (x.examineFor k t) l' ∧ l'.Fits := by
  induction k with
  | zero => exact fun h hl hk => ⟨_, h, hl, fun hr => (hk hr).resolve_left (by simp)⟩
  | succ k ih =>
    intro x l h hl _
    have hspec := verdict_spec (x.rc t) (x.acc t) (x.cfg t).intrusive
    unfold State.examineFor
    have hbatch : (x.acc t).batch = l.batch := by rw [← h.here]; rfl
    rw [h.inFlight_eq, h.run_eq, h.held_eq, hbatch] at hspec
    cases hv : verdict (x.rc t) (x.acc t) (x.cfg t).intrusive with
    | wait =>
      rw [hv] at hspec
      exact ⟨l, h, hl, fun hr => hspec.resolve_right (by simp [hr])⟩
    | fail st =>
      rw [hv] at hspec
      obtain ⟨hfly, hrun⟩ := hspec
      have hex : l.exchanging = false := by
        have := hl.exchanging
        simpa [hfly] using this
      have hdrop := hl.dropHead hl.batch
      rw [← hex] at hdrop
      exact ih (h.failHead st) ⟨hdrop, hl.rel, fun hr => absurd hr hrun⟩ fun hr => absurd hr hrun
    | start =>
      rw [hv] at hspec
      obtain ⟨hfly, hq, hrun⟩ := hspec
      have hne := h.queue_ne_nil hq
      refine ⟨_, h.startHead hne, ⟨⟨hl.access ?_ ?_ ?_ ?_ hl.batch, hl.rel, fun hr _ => ?_⟩, fun _ => rfl⟩⟩
      · cases hf : l.flying with
        | nil => exact absurd hf hne
        | cons b bs => simpa [hf] using hl.short
      · simp [Look.inFlight]
      · exact hl.waiting
      · rintro hr
        rcases hrun with h1 | ⟨h1, -⟩ <;> simp [h1] at hr
      · rcases hrun with h1 | ⟨-, h4⟩
        · simp [h1] at hr
        · exact lt_of_le_of_ne hl.batch h4
    | beginService =>
      rw [hv] at hspec
      obtain ⟨hfly, hrun⟩ := hspec
      refine ⟨_, h.beginService, ((hl.toSound.enter (out := some .svcReq) (run := .svcPending) (held := l.held)
        (relDefer := l.relDefer) ?_ ?_ ?_ ?_ ?_ ?_ rfl ?_ ?_ ?_).ready ?_ ?_).fits ?_⟩
      case refine_7 => exact fun _ => hl.unheld (.inl hrun)
      case refine_8 => simp [hl.toSound.relDefer_false (by simp [hrun])]
      case refine_9 => exact fun _ => hfly
      all_goals simp [hrun]
    | exitHold =>
      rw [hv] at hspec
      obtain ⟨hfly, hrun⟩ := hspec
      refine ⟨_, h.exitHold, ((hl.toSound.enter (out := some .svcExitHold) (run := .stopping) (held := l.held)
        (relDefer := l.relDefer) ?_ ?_ ?_ ?_ ?_ ?_ (Or.inr rfl) ?_ ?_ ?_).ready ?_ ?_).fits ?_⟩
      case refine_8 => simp [hl.toSound.relDefer_false (by simp [hrun])]
      all_goals simp [hrun]
    | exitResume =>
      rw [hv] at hspec
      obtain ⟨hfly, hrun, hheld⟩ := hspec
      have hout : l.out = none := by
        have := hl.out
        simpa [Look.outFits, hrun] using this
      refine ih h.exitResume ((hl.toSound.enter (out := l.out) (run := .running) (held := l.held) (relDefer := false) ?_ ?_ ?_ ?_ ?_ ?_ hout
        ?_ ?_ ?_).ready ?_ ?_)
        fun hr => ?_
      case refine_7 => simpa using hheld
      all_goals simp_all

theorem examine (h : s.Moves t x l) (hl : l.Ready) : ∃ l', s.Moves t (x.examine t) l' ∧ l'.Fits :=
  examineFor _ h hl fun _ => .inl (Nat.succ_ne_zero _)

theorem examine_coherent (h : s.Moves t x l) (hs : s.targetsCoherent) (hl : l.Ready) : (x.examine t).targetsCoherent := by
  obtain ⟨l', h', hl'⟩ := h.examine hl
  exact h'.coherent hs hl'

end Moves

end State

end Sys2Proof.Machine
end

section
/-! PROOF. The requests and the end of a session leave every target coherent. -/

namespace Sys2Proof.Machine

/-! ### Hold sets that lose members -/

namespace HoldSet

theorem isEmpty_iff (h : HoldSet) : h.isEmpty = true ↔ (∀ n, h.has n = false) ∧ h.self = false := by
  simp [isEmpty]

/-- `h'` has no member that `h` lacks. -/
def within (h' h : HoldSet) : Prop := (∀ n, h'.has n = true → h.has n = true) ∧ (h'.self = true → h.self = true)

theorem within.isEmpty {h' h : HoldSet} (hw : h'.within h) (he : h.isEmpty = true) : h'.isEmpty = true := by
  obtain ⟨hall, hself⟩ := (isEmpty_iff h).1 he
  refine (isEmpty_iff h').2 ⟨fun n => ?_, ?_⟩
  · have := mt (hw.1 n) (by simp [hall n])
    simpa using this
  · have := mt hw.2 (by simp [hself])
    simpa using this

theorem within_remove (h : HoldSet) (n : Index) : (h.remove n).within h := by
  refine ⟨fun m => ?_, id⟩
  unfold has remove
  by_cases hm : m = n
  · subst hm; simp
  · simp [Quad.get_set_of_ne _ hm]

theorem within_removeSelf (h : HoldSet) : h.removeSelf.within h := ⟨fun _ => id, fun hs => by simp [removeSelf] at hs⟩

theorem within.trans {h h' h'' : HoldSet} (hw : h''.within h') (hw' : h'.within h) : h''.within h :=
  ⟨fun n hn => hw'.1 n (hw.1 n hn), fun hs => hw'.2 (hw.2 hs)⟩

/-- What a forced release leaves (R105). -/
theorem within_ownOnly (h : HoldSet) (n : Index) : HoldSet.within { members := (Quad.all false).set n (h.has n), self := false } h := by
  refine ⟨fun m => ?_, fun hs => by simp at hs⟩
  unfold has
  by_cases hm : m = n
  · subst hm; simp
  · simp [Quad.get_set_of_ne _ hm]

theorem isEmpty_add (h : HoldSet) (n : Index) : (h.add n).isEmpty = false := by
  by_contra hne
  have := ((isEmpty_iff _).1 (by simpa using hne)).1 n
  simp [has, add] at this

theorem isEmpty_addSelf (h : HoldSet) : h.addSelf.isEmpty = false := by
  by_contra hne
  have := ((isEmpty_iff _).1 (by simpa using hne)).2
  simp [addSelf] at this

/-- A session that is no member leaves nothing by leaving. -/
theorem remove_of_not_has {h : HoldSet} {n : Index} (hn : h.has n = false) : h.remove n = h := by
  unfold remove
  unfold has at hn
  rw [← hn, Quad.set_get]

end HoldSet

namespace Look

/-- Fewer holders. -/
theorem Sound.lessHeld {l : Look} (h : l.Sound) {b : Bool} (hb : b = true → l.held = true) : ({ l with held := b } : Look).Sound :=
  h.change (out := l.out) (run := l.run) (seq := l.seq) (reset := l.reset) (timer := l.timer) (relDefer := l.relDefer) Iff.rfl h.seq h.reset
    h.timer h.out (fun hr => by
      have := mt hb (by simp [h.unheld hr])
      simpa using this) h.deferred h.pending

end Look

namespace State

/-! ### Operations that change no look -/

namespace looksAs

theorem refl (s : State) : s.looksAs s := fun _ => rfl

theorem trans {s x y : State} (h : s.looksAs x) (h' : x.looksAs y) : s.looksAs y := fun t => (h' t).trans (h t)

variable {s x : State} (h : s.looksAs x)

include h

theorem of_mute {y : State} (hm : y.mute = x.mute) : s.looksAs y := h.trans (looksAs_of_mute hm)

theorem notifyState (t : Index) : s.looksAs (x.notifyState t) := h.of_mute (mute_notifyState x t)

theorem respondNow (l : Index) (r : Response) : s.looksAs (x.respondNow l r) := h.of_mute (mute_respondNow x l r)

theorem respondPlain (l : Index) (tag kind : Byte) (st : Status) : s.looksAs (x.respondPlain l tag kind st) := h.respondNow l _

theorem queueNotice (n : Index) (b : NoticeBody) : s.looksAs (x.queueNotice n b) := h.of_mute (mute_queueNotice x n b)

theorem modTarget (t : Index) (f : Target → Target) (hf : ∀ y, (f y).look = y.look) : s.looksAs (x.modTarget t f) := by
  refine h.trans fun u => ?_
  rw [modTarget_target]
  split
  · rename_i hu; subst hu; exact hf _
  · rfl

theorem modRc (t : Index) (f : RunControl → RunControl)
    (hf : ∀ y : Target, ({ y with rc := f y.rc } : Target).look = y.look := by intro; rfl) : s.looksAs (x.modRc t f) :=
  h.modTarget t _ hf

theorem modPort (t : Index) (f : Port → Port)
    (hf : ∀ y : Target, ({ y with port := f y.port } : Target).look = y.look := by intro; rfl) : s.looksAs (x.modPort t f) :=
  h.modTarget t _ hf

theorem hand (t : Index) (m : PortMsg) : s.looksAs (x.hand t m) :=
  h.modPort t _ fun y => by
    cases m with
    | attn k => dsimp only; split <;> rfl
    | _ => rfl

theorem sendWatch (t : Index) : s.looksAs (x.sendWatch t) := (h.hand t _).modPort t _

theorem watchChanged (t : Index) : s.looksAs (x.watchChanged t) := by
  rw [watchChanged_eq]
  unfold watchSent
  split
  · exact h
  · exact h.modPort t _

theorem watchSince (before : State) (t : Index) : s.looksAs (x.watchSince before t) := by
  unfold State.watchSince
  split
  · exact h
  · exact h.watchChanged t

theorem choice {y : State} {c : Prop} [Decidable c] (hy : s.looksAs y) : s.looksAs (if c then x else y) := by
  split
  · exact h
  · exact hy

theorem dropRecords (gone : Record → Bool) : s.looksAs (x.dropRecords gone) := by
  refine h.trans fun t => ?_
  have hrc := rc_dropRecords x t gone
  have hacc := acc_dropRecords x t gone
  have hport := port_dropRecords x t gone
  have hcfg := cfg_dropRecords x t gone
  simp only [rc, acc, port, cfg] at hrc hacc hport hcfg
  unfold Target.look
  rw [hrc, hacc, hport, hcfg]

theorem bindRecord (r : Record) : s.looksAs (x.bindRecord r) :=
  modTarget (x := { x with records := insertRecord r x.records }) (fun t => h t) r.target _ fun _ => rfl

/-- A mark on the step sequence record, with other fields that coherence does not read. -/
theorem markSeq (t : Index) (f : StepSeq → StepSeq) (g : RunControl → RunControl) (hf : ∀ q, (f q).outstanding = q.outstanding)
    (hg : ∀ r, g r = { r with lock := (g r).lock, stepSeq := r.stepSeq.map f }) : s.looksAs (x.modRc t g) :=
  h.modRc t g fun y => by
    rw [hg]
    unfold Target.look
    simp [hf, Function.comp_def]

theorem dropLock (t : Index) : s.looksAs ((x.modRc t fun r => { r with lock := none }).notifyState t) := (h.modRc t _).notifyState t

end looksAs

/-! ### Claims and hold set changes -/

theorem fits_of_coherent {s : State} (hs : s.targetsCoherent) (t : Index) : (s.target t).look.Fits := targetsCoherent_iff.1 hs t

namespace Moves

variable {s x : State} {t : Index} {l : Look}

/-- A sound HALTED target after a change of its hold set is coherent. -/
theorem afterHoldChange_fits (h : s.Moves t x l) (hl : l.Sound) (hrun : l.run = .halted) :
    ∃ l', s.Moves t (x.afterHoldChange t) l' ∧ l'.Fits := by
  refine ⟨_, h.afterHoldChange, ?_⟩
  split
  · rename_i hheld
    exact (Look.Ready.mk hl (fun _ hno => by simp [hheld] at hno) (fun hr => absurd hr (by simp [hrun]))).fits (by simp [hrun])
  · exact hl.released hrun

/-- Holders that leave a coherent target release it where it is HALTED (R7, R8). -/
theorem holdLost {b : Bool} (h : s.Moves t x { l with held := b }) (hl : l.Fits) (hb : b = true → l.held = true) :
    ∃ l', s.Moves t (if l.run = .halted then x.afterHoldChange t else x) l' ∧ l'.Fits := by
  have hsound := hl.toSound.lessHeld hb
  split
  · rename_i hrun
    exact h.afterHoldChange_fits hsound hrun
  · rename_i hrun
    exact ⟨_, h, ⟨hsound, fun hr => absurd hr hrun, hl.room⟩, hl.serves⟩

end Moves

/-- A claim added to the hold set leaves the targets coherent (Table 1-3). -/
theorem claim_coherent {s : State} (hs : s.targetsCoherent) (t n : Index) (c : StopCause) : (s.claim t n c).targetsCoherent := by
  have hl := fits_of_coherent hs t
  have h := Moves.refl s t
  generalize (s.target t).look = l at hl h
  have h1 : s.Moves t (s.modRc t fun r => { r with hold := r.hold.add n }) { l with held := true } :=
    h.modRc _ (fun l => { l with held := true }) fun y => by
      unfold Target.look
      simp [HoldSet.isEmpty_add]
  have hrel := hl.toSound.relDefer_false
  have hheld (hrun : l.run ≠ .running ∧ l.run ≠ .svcPending) : ({ l with held := true } : Look).Sound :=
    hl.toSound.change (out := l.out) (run := l.run) (seq := l.seq) (reset := l.reset) (timer := l.timer) (relDefer := l.relDefer) Iff.rfl
      hl.seq hl.reset hl.timer hl.out (fun hr => absurd hr (by simp [hrun])) hl.deferred hl.pending
  have hjoined (hrun : l.run ≠ .running ∧ l.run ≠ .svcPending) : ({ l with held := true } : Look).Fits :=
    ⟨⟨hheld hrun, fun _ hno => by simp at hno, hl.room⟩, hl.serves⟩
  have hstopped (hrun : l.run = .running ∨ l.run = .svcPending) :
      ({ l with held := true, out := some .stop, relDefer := false, run := .stopping } : Look).Fits := by
    refine ((hl.toSound.enter (out := some .stop) (run := .stopping) (held := true) (relDefer := false) ?_ ?_ ?_ ?_ ?_ ?_ (Or.inl rfl) ?_ ?_
      ?_).ready ?_ ?_).fits ?_
    all_goals rcases hrun with hrun | hrun <;> simp [hrun]
  unfold State.claim
  have hrun := h.run_eq
  cases hr : (s.rc t).run with
  | running =>
    rw [hr] at hrun
    exact ((h1.setStopCause c).stop).coherent hs (hstopped (.inl hrun.symm))
  | svcPending =>
    rw [hr] at hrun
    exact ((h1.setStopCause c).cancelService.stop).coherent hs (hstopped (.inr hrun.symm))
  | stopping =>
    rw [hr] at hrun
    exact (h1.setStopCause c).coherent hs (hjoined (by simp [← hrun]))
  | releasing =>
    rw [hr] at hrun
    exact (h1.setStopCause c).coherent hs (hjoined (by simp [← hrun]))
  | service =>
    rw [hr] at hrun
    have hfly := hl.serves hrun.symm
    rw [← h.inFlight_eq] at hfly
    simp only [hfly, if_true]
    exact (h1.setStopCause c).coherent hs (hjoined (by simp [← hrun]))
  | stepping =>
    rw [hr] at hrun
    exact (h1.modSeq _).coherent hs (hjoined (by simp [← hrun]))
  | halted =>
    rw [hr] at hrun
    simp only
    split
    · exact h1.coherent hs (hjoined (by simp [← hrun]))
    · exact (h1.notifyState t).coherent hs (hjoined (by simp [← hrun]))
  | _ =>
    rw [hr] at hrun
    exact h1.coherent hs (hjoined (by simp [← hrun]))

theorem addWaiter_looksAs (s : State) (t n : Index) (tag : Byte) (k : WaitKind) : s.looksAs (s.addWaiter t n tag k) :=
  looksAs.modRc (x := s.joinWindow n tag) (fun _ => rfl) t _

theorem takeHalt_coherent {s : State} (hs : s.targetsCoherent) (n : Index) (tag : Byte) (t : Index) (emptyOps : Bool) :
    (s.takeHalt n tag t emptyOps).targetsCoherent := by
  have hplain (st : Status) := ((looksAs.refl s).respondPlain n tag 0x10 st).coherent hs
  unfold State.takeHalt
  simp only
  split
  · exact hplain _
  split
  · exact hplain _
  split
  · exact hplain _
  split
  · exact hplain _
  split
  · exact ((looksAs.refl _).respondPlain n tag _ _).coherent (claim_coherent hs t n _)
  · exact claim_coherent ((addWaiter_looksAs s t n tag .halt).coherent hs) t n _

/-- What the look becomes when the hold set is replaced by one within it, and the step sequence is marked. -/
theorem Moves.shrinkHold {s : State} {t : Index} (hold : HoldSet) (f : StepSeq → StepSeq) (hf : ∀ q, (f q).outstanding = q.outstanding) :
    s.Moves t (s.modRc t fun r => { r with hold, stepSeq := r.stepSeq.map f }) { (s.target t).look with held := !hold.isEmpty } :=
  (Moves.refl s t).modRc _ (fun l => { l with held := !hold.isEmpty }) fun y => by
    unfold Target.look
    simp [hf, Function.comp_def]

theorem held_of_within {s : State} {t : Index} {hold : HoldSet} (hw : hold.within (s.rc t).hold) (hb : (!hold.isEmpty) = true) :
    (s.target t).look.held = true := by
  have := mt hw.isEmpty (by simpa using hb)
  show (!(s.rc t).hold.isEmpty) = true
  simpa using this

theorem takeResume_coherent {s : State} (hs : s.targetsCoherent) (n : Index) (tag : Byte) (t : Index) (emptyOps : Bool) :
    (s.takeResume n tag t emptyOps).targetsCoherent := by
  have hl := fits_of_coherent hs t
  have hplain (st : Status) := ((looksAs.refl s).respondPlain n tag 0x11 st).coherent hs
  have hwithin : (s.holdAfterResume n t).within (s.rc t).hold := (HoldSet.within_removeSelf _).trans (HoldSet.within_remove _ n)
  have h2 := (Moves.shrinkHold (s := s) (t := t) (s.holdAfterResume n t)
    (fun q => if q.session = n && (s.rc t).hold.has n then { q with aborted := true } else q) (fun q => by split <;> rfl)).abortHalts (· == n)
  have hrun : (s.target t).look.run = (s.rc t).run := rfl
  unfold State.takeResume
  simp only
  split
  · exact hplain _
  split
  · exact hplain _
  split
  · exact hplain _
  split
  · exact hplain _
  split
  · obtain ⟨l', h', hl'⟩ := (h2.looksAs (addWaiter_looksAs _ t n tag .resume)).holdLost hl (held_of_within hwithin)
    rw [hrun] at h'
    exact h'.coherent hs hl'
  · obtain ⟨l', h', hl'⟩ := h2.holdLost hl (held_of_within hwithin)
    rw [hrun] at h'
    exact (h'.respondNow n _).coherent hs hl'

theorem takeFrel_coherent {s : State} (hs : s.targetsCoherent) (n : Index) (tag : Byte) (t : Index) :
    (s.takeFrel n tag t).targetsCoherent := by
  have hl := fits_of_coherent hs t
  set hold : HoldSet := { members := (Quad.all false).set n ((s.rc t).hold.has n), self := false } with hhold
  have hwithin : hold.within (s.rc t).hold := HoldSet.within_ownOnly _ n
  unfold State.takeFrel
  split
  · exact ((looksAs.refl s).respondPlain n tag 0x16 .role).coherent hs
  · simp only
    set f : StepSeq → StepSeq := fun q => if (s.revokedHold n t).get q.session then { q with aborted := true } else q with hf
    set s1 := s.modRc t fun x =>
      { x with hold := { members := (Quad.all false).set n (x.hold.has n), self := false }, stepSeq := x.stepSeq.map f } with hs1
    have hsame : s1 = s.modRc t fun r => { r with hold, stepSeq := r.stepSeq.map f } := modRc_congr s t rfl
    have hrc : (s1.rc t).hold = hold := by rw [hsame]; simp
    have h1 : s.Moves t s1 { (s.target t).look with held := !hold.isEmpty } := by
      rw [hsame]
      exact Moves.shrinkHold hold f fun q => by rw [hf]; dsimp only; split <;> rfl
    set s3 := indices.foldl (fun s' m =>
      if (s.revokedHold n t).get m || (s.revokedLock n t).get m then
        s'.queueNotice m (.revokedClaims t ((s.revokedHold n t).get m) ((s.revokedLock n t).get m)) else s')
      (s1.abortHalts t (s.revokedHold n t).get) with hs3
    have hall (ms : List Index) : ∀ y : State, y.looksAs (ms.foldl (fun s' m =>
        if (s.revokedHold n t).get m || (s.revokedLock n t).get m then
          s'.queueNotice m (.revokedClaims t ((s.revokedHold n t).get m) ((s.revokedLock n t).get m)) else s') y) := by
      induction ms with
      | nil => exact looksAs.refl
      | cons m ms ih => exact fun y => (((looksAs.refl y).queueNotice m _).choice (looksAs.refl y)).trans (ih _)
    have h3 := (h1.abortHalts (s.revokedHold n t).get).looksAs (hall indices _)
    obtain ⟨l', h', hl'⟩ : ∃ l', s.Moves t (if (s.rc t).run = .halted ∧ (s1.rc t).hold ≠ (s.rc t).hold then s3.afterHoldChange t else s3)
        l' ∧ l'.Fits := by
      rw [hrc]
      by_cases hsameHold : hold = (s.rc t).hold
      · rw [if_neg (by simp [hsameHold])]
        refine ⟨_, h3, ?_⟩
        rw [hsameHold]
        exact hl
      · simp only [ne_eq, hsameHold, not_false_eq_true, and_true]
        exact h3.holdLost hl (held_of_within hwithin)
    have h5 := h'.looksAs (((looksAs.refl _).choice (c := s.revokedLock n t = .all false) ((looksAs.refl _).dropLock t)))
    exact (h5.respondNow n _).coherent hs hl'

/-! ### STEP, accesses, target resets and configuration -/

theorem takeStep_coherent {s : State} (hs : s.targetsCoherent) (n : Index) (tag : Byte) (t : Index) (count : Byte) :
    (s.takeStep n tag t count).targetsCoherent := by
  have hl := fits_of_coherent hs t
  unfold State.takeStep
  split
  · exact ((looksAs.refl s).respondPlain n tag 0x12 _).coherent hs
  · rename_i hnone
    obtain ⟨-, -, -, hhalted, -⟩ := stepRefusal?_eq_none hnone
    have hrun : (s.target t).look.run = .halted := hhalted
    have hjoin : s.looksAs (s.joinWindow n tag) := fun _ => rfl
    have h0 := (Moves.refl s t).looksAs hjoin
    have hfly : (s.acc t).inFlight = (s.target t).look.inFlight := (Moves.refl s t).inFlight_eq
    have hout : (s.target t).look.out = none := by
      have := hl.out
      simpa [Look.outFits, hrun] using this
    generalize (s.target t).look = l at hl hrun h0 hfly hout
    have h1 : s.Moves t ((s.joinWindow n tag).modRc t fun r =>
        { r with hold := r.hold.removeSelf, relDefer := false, stepSeq := some (newSeq n tag count) })
        { l with held := !((s.joinWindow n tag).rc t).hold.removeSelf.isEmpty, relDefer := false, seq := some false } := by
      refine h0.modTarget _ ?_
      rw [← h0.here]
      rfl
    have hreset := hl.toSound.reset_none (by simp [hrun])
    have htimer := hl.toSound.timer_false (by simp [hrun])
    simp only [hfly]
    split
    · refine (h1.setRun .stepping).coherent hs (((hl.toSound.change (out := l.out) (run := .stepping) (seq := some false) (reset := l.reset)
        (timer := l.timer) (relDefer := false) ?_ ?_ ?_ hl.timer ?_ ?_ ?_ ?_).ready ?_ ?_).fits ?_)
      case refine_4 => simp [Look.outFits, hout]
      all_goals simp [hrun, hreset]
    · refine ((h1.sendStep).setRun .stepping).coherent hs (((hl.toSound.change (out := some .step) (run := .stepping) (seq := some true)
        (reset := l.reset) (timer := l.timer) (relDefer := false) ?_ ?_ ?_ hl.timer ?_ ?_ ?_ ?_).ready ?_ ?_).fits ?_)
      case refine_4 => simp [Look.outFits]
      all_goals simp [hrun, hreset]

theorem addAccess_coherent {s : State} (hs : s.targetsCoherent) {t : Index} (hroom : (s.acc t).queue.length < 8) (n : Index) (tag : Byte)
    (op : AccOp) (space : Space) (location : Addr) : (s.addAccess n tag t op space location).targetsCoherent := by
  have hl := fits_of_coherent hs t
  have h0 := Moves.refl s t
  have hlen : (s.target t).look.flying.length < 8 := by
    show ((s.acc t).queue.map (·.inFlight)).length < 8
    simpa using hroom
  have hempty : (s.acc t).queue.isEmpty = (s.target t).look.flying.isEmpty := by
    show (s.acc t).queue.isEmpty = ((s.acc t).queue.map (·.inFlight)).isEmpty
    rw [List.isEmpty_map]
  generalize (s.target t).look = l at hl h0 hlen hempty
  have h1 : s.Moves t ((s.joinWindow n tag).modAcc t fun a =>
      { a with queue := a.queue ++ [{ session := n, tag, op, space, location, inFlight := false, written := false, discard := false }] })
      { l with flying := l.flying ++ [false] } :=
    (h0.looksAs (y := s.joinWindow n tag) fun _ => rfl).modAcc _ (fun l => { l with flying := l.flying ++ [false] }) fun y => by
      simp [Target.look]
  have hfly : ({ l with flying := l.flying ++ [false] } : Look).inFlight = l.inFlight := by
    unfold Look.inFlight
    cases l.flying <;> rfl
  have hsound : ({ l with flying := l.flying ++ [false] } : Look).Sound := by
    refine hl.toSound.access ?_ (hfly ▸ hl.exchanging) (fun b hb => ?_) (fun hr => hfly.trans (hl.pending hr)) hl.batch
    · simpa using hlen
    · cases hf : l.flying with
      | nil => simp [hf] at hb
      | cons c cs =>
        have hw := hl.waiting
        rw [hf] at hb hw
        rcases List.mem_append.1 hb with hb | hb
        · exact hw b hb
        · simpa using hb
  have hready : ({ l with flying := l.flying ++ [false] } : Look).Ready :=
    ⟨hsound, hl.rel, fun hr hf => hl.room hr (hfly.symm.trans hf)⟩
  unfold addAccess
  rw [hempty]
  split
  · exact h1.examine_coherent hs hready
  · exact h1.coherent hs ⟨hready, fun hr => hfly.trans (hl.serves hr)⟩

theorem length_of_accessRefusal {s : State} {n t : Index} {op : AccOp} {space : Byte} {location : Addr}
    (h : s.accessRefusal? n t op space location = none) : (s.acc t).queue.length < 8 := by
  by_contra hfull
  have hfull' : Config.maxAccesses ≤ (s.acc t).queue.length := by simpa [Config.maxAccesses] using hfull
  unfold accessRefusal? at h
  simp only [hfull', if_true] at h
  split at h
  · exact absurd h (by simp)
  · split_ifs at h

theorem takeRead_coherent {s : State} (hs : s.targetsCoherent) (n : Index) (tag : Byte) (t : Index) (space : Byte) (location : Addr) :
    (s.takeRead n tag t space location).targetsCoherent := by
  unfold State.takeRead
  split
  · exact ((looksAs.refl s).respondPlain n tag _ _).coherent hs
  · rename_i hnone
    exact addAccess_coherent hs (length_of_accessRefusal hnone) n tag _ _ location

theorem takeWrite_coherent {s : State} (hs : s.targetsCoherent) (n : Index) (tag : Byte) (t : Index) (space : Byte) (location : Addr)
    (data : Word) : (s.takeWrite n tag t space location data).targetsCoherent := by
  unfold State.takeWrite
  split
  · exact ((looksAs.refl s).respondPlain n tag _ _).coherent hs
  · rename_i hnone
    exact addAccess_coherent hs (length_of_accessRefusal hnone) n tag _ _ location

end State

end Sys2Proof.Machine
end

section
/-! PROOF. Target resets, attach and detach, session ends and the events of a target leave every target coherent. -/

namespace Sys2Proof.Machine

namespace State

/-! ### Target resets -/

theorem Moves.failInFlight_sound {s x : State} {t : Index} {l : Look} (h : s.Moves t x l) (st : Status) : ∃ flying exchanging,
    s.Moves t (x.failInFlight t st) { l with flying, exchanging } ∧ ∀ l0 : Look, l0.Sound → l0.flying = l.flying →
      l0.exchanging = l.exchanging → ({ l0 with flying, exchanging } : Look).Sound := by
  have h1 := h.failInFlight st
  split at h1
  · refine ⟨_, _, h1, fun l0 hl0 hfly _ => ?_⟩
    have := hl0.dropHead hl0.batch
    rwa [hfly] at this
  · exact ⟨l.flying, l.exchanging, h1, fun l0 hl0 hfly hex => hfly ▸ hex ▸ hl0⟩

theorem beginReset_coherent {s : State} (hs : s.targetsCoherent) {t : Index} (hdet : (s.rc t).run ≠ .detached) (n : Index) (tag : Byte) :
    (s.beginReset n tag t).targetsCoherent := by
  have hl := fits_of_coherent hs t
  have h0 := Moves.refl s t
  have hrun : (s.target t).look.run ≠ .detached := hdet
  generalize (s.target t).look = l at hl h0 hrun
  obtain ⟨flying, exchanging, h1, hsound⟩ := (h0.endReset .targetReset []).failInFlight_sound .targetReset
  have h2 := (h1.failSeq .targetReset).answerAll .targetReset
  have hl2 := hsound l hl.toSound rfl rfl
  have h3 := h2.modTarget (fun y => { y with rc := { y.rc with
      hold := y.rc.hold.removeSelf, relDefer := false, stopCause := none
      resetRec := some { session := n, tag, discard := false, phase := .holding }
      resetTimer := some (s.cfg t).resetHold.toNat } })
    (l' := { l with
      flying, exchanging, seq := none, relDefer := false, reset := some .holding, timer := true
      held := !((((((s.endReset t .targetReset []).failInFlight t .targetReset).failSeq t .targetReset).answerAll t
        .targetReset).target t).rc.hold.removeSelf.isEmpty) }) (by
      have hhere := h2.here
      unfold Target.look at hhere ⊢
      simp only [Look.mk.injEq] at hhere ⊢
      simp [hhere])
  refine Moves.coherent (((h3.modPort (fun p => { p with outstanding := none, sendList := [] }) fun l => { l with out := none }).hand
    .rstOn).setRun .resetting) hs ?_
  refine ((hl2.change (out := none) (run := .resetting) (seq := none) (reset := some .holding) (timer := true) (relDefer := false) ?_ ?_ ?_
    ?_ rfl ?_ ?_ ?_).ready ?_ ?_).fits ?_
  all_goals simp [hrun]

theorem takeTreset_coherent {s : State} (hs : s.targetsCoherent) (n : Index) (tag : Byte) (t : Index) :
    (s.takeTreset n tag t).targetsCoherent := by
  have hplain (st : Status) := ((looksAs.refl s).respondPlain n tag 0x51 st).coherent hs
  unfold State.takeTreset
  split
  · exact hplain _
  split
  · exact hplain _
  · rename_i hdet
    have hjoin : (s.joinWindow n tag).targetsCoherent := hs
    exact beginReset_coherent hjoin (t := t) hdet n tag

/-! ### Attach and detach (R21, R23, R172) -/

namespace Moves

variable {s x : State} {t : Index} {l : Look}

theorem attach (h : s.Moves t x l) : s.Moves t (x.attach t) { l with out := some .probe, link := .probing } := by
  unfold State.attach
  simp only
  split
  · exact (((h.hand _).sendWatch).handRc .probe).modPort _ fun l => { l with link := .probing }
  · exact ((h.sendWatch).handRc .probe).modPort _ fun l => { l with link := .probing }

theorem idlePort (h : s.Moves t x l) (link : LinkState) : s.Moves t (x.idlePort t link) { l with out := none, link } :=
  h.modPort _ fun l => { l with out := none, link }

theorem detach (h : s.Moves t x l) (link : LinkState) : s.Moves t (x.detach t link)
    { l with
      out := none, link, run := .detached, relDefer := false, reset := none, timer := l.timer && l.reset.isNone, seq := none
      flying := [], exchanging := false } :=
  (((((((h.idlePort link).modRc _ fun l => { l with run := .detached, relDefer := false }).endReset .detached []).answerAll
    .detached).failSeq .detached).failAllAccesses .detached).notifyState t)

end Moves

end State

namespace Look

/-- A port without a target: DETACHED, and nothing outstanding. -/
theorem Fits.unlinked {l : Look} (h : l.Fits) {link : LinkState} {present enable : Bool} (hlink : link = .disabled ↔ enable = false)
    (habsent : link = .absent → present = false) (hdown : link = .disabled ∨ link = .absent) :
    (l.run = .detached → ({ l with link, present, enable, out := none } : Look).Fits) ∧
      ({ l with
        link, present, enable, out := none, run := .detached, relDefer := false, reset := none, timer := l.timer && l.reset.isNone
        seq := none, flying := [], exchanging := false } : Look).Fits := by
  have hne : link ≠ .probing ∧ link ≠ .active := by rcases hdown with rfl | rfl <;> simp
  have htimer : (l.timer && l.reset.isNone) = false := by
    cases ht : l.timer with
    | false => rfl
    | true => simp [h.timer.1 ht]
  have hall {run : RunState} {seq : Option Bool} {reset : Option ResetPhase} {timer relDefer : Bool} {flying : List Bool} {exchanging : Bool}
      (hrun : run = .detached) (hseq : seq = none) (hreset : reset = none) (htm : timer = false) (hrel : relDefer = false)
      (hshort : flying.length ≤ 8) (hex : exchanging = true ↔ ({ l with flying } : Look).inFlight = true)
      (hwait : ∀ b ∈ flying.tail, b = false) :
      ({ l with link, present, enable, out := none, run, seq, reset, timer, relDefer, flying, exchanging } : Look).Fits := by
    subst hrun hseq hreset htm hrel
    refine ⟨⟨⟨hlink, habsent, ?_, ?_, ?_, ?_, ?_, ?_, ?_, ?_, hshort, hex, hwait, ?_, h.batch⟩, ?_, ?_⟩, ?_⟩
    case refine_6 => simp [outFits, hne]
    all_goals simp [hne, relFits, batchFits, Look.serves]
  refine ⟨fun hrun => ?_, hall rfl rfl rfl htimer rfl (by simp) (by simp [inFlight]) (by simp)⟩
  exact hall hrun (h.toSound.seq_none (by simp [hrun])) (h.toSound.reset_none (by simp [hrun])) (h.toSound.timer_false (by simp [hrun]))
    (h.toSound.relDefer_false (by simp [hrun])) h.short h.exchanging h.waiting

/-- The run state of a target whose port is not ACTIVE. -/
theorem Fits.run_of_link {l : Look} (h : l.Fits) (hlink : l.link ≠ .active) : l.run = .detached := h.detached.2 hlink

/-- An attach begun on a port without a target. -/
theorem Fits.probing {l : Look} (h : l.Fits) (hlink : l.link ≠ .active) {present enable : Bool} (hp : present = true)
    (hen : enable = true) : ({ l with present, enable, out := some .probe, link := .probing } : Look).Fits := by
  subst hp hen
  have hrun := h.run_of_link hlink
  refine ⟨⟨⟨?_, ?_, ?_, ?_, h.seq, h.reset, h.timer, ?_, h.unheld, h.deferred, h.short, h.exchanging, h.waiting, h.pending, h.batch⟩,
    h.rel, h.room⟩, h.serves⟩
  case refine_5 => simp [outFits, hrun]
  all_goals simp [hrun]

end Look

namespace State

/-- The port of `t` loses its target where the line and the enable have gone down in `x`. -/
theorem loseTarget_coherent {s x : State} (hs : s.targetsCoherent) {t : Index} {l : Look} {link : LinkState} {present enable : Bool}
    (hl : l.Fits) (h : s.Moves t x { l with present, enable }) (hlink : link = .disabled ↔ enable = false)
    (habsent : link = .absent → present = false) (hdown : link = .disabled ∨ link = .absent) :
    (x.loseTarget t link).targetsCoherent := by
  obtain ⟨hidle, hdetach⟩ := hl.unlinked hlink habsent hdown
  have heq : (x.port t).link = l.link := h.link_eq
  have hgo (hne : l.link ≠ .active) : (x.idlePort t link).targetsCoherent :=
    (h.idlePort link).coherent hs (hidle (hl.run_of_link hne))
  unfold State.loseTarget
  cases hp : (x.port t).link with
  | active => exact (h.detach link).coherent hs hdetach
  | probing => exact hgo (by rw [← heq, hp]; simp)
  | absent => exact hgo (by rw [← heq, hp]; simp)
  | disabled => exact hgo (by rw [← heq, hp]; simp)

theorem presentRises_coherent {s : State} (hs : s.targetsCoherent) (t : Index) : (s.presentRises t).targetsCoherent := by
  have hl := fits_of_coherent hs t
  have h0 := Moves.refl s t
  have hpresent : (s.port t).present = (s.target t).look.present := rfl
  have hlink : (s.port t).link = (s.target t).look.link := rfl
  generalize (s.target t).look = l at hl h0 hpresent hlink
  have h1 := h0.modPort (fun p => { p with present := true }) fun l => { l with present := true }
  unfold State.presentRises
  rw [hpresent, hlink]
  split
  · exact hs
  · rename_i hdown
    have hnot := mt hl.attached hdown
    push Not at hnot
    simp only
    split
    · rename_i habsent
      refine h1.attach.coherent hs ?_
      have henable : l.enable = true := by
        have := mt hl.disabled.2 (by simp [habsent])
        simpa using this
      exact hl.probing hnot.2 rfl henable
    · rename_i hne
      refine h1.coherent hs ⟨⟨⟨hl.disabled, fun ha => absurd ha hne, fun _ => rfl, hl.detached, hl.seq, hl.reset, hl.timer, hl.out,
        hl.unheld, hl.deferred, hl.short, hl.exchanging, hl.waiting, hl.pending, hl.batch⟩, hl.rel, hl.room⟩, hl.serves⟩

theorem presentFalls_coherent {s : State} (hs : s.targetsCoherent) (t : Index) : (s.presentFalls t).targetsCoherent := by
  have hl := fits_of_coherent hs t
  have h0 := Moves.refl s t
  have hlink : (s.port t).link = (s.target t).look.link := rfl
  generalize (s.target t).look = l at hl h0 hlink
  have h1 := h0.modPort (fun p => { p with present := false }) fun l => { l with present := false }
  unfold State.presentFalls
  split
  · rw [hlink]
    simp only
    split
    · rename_i hdis
      refine h1.coherent hs ⟨⟨⟨hl.disabled, fun _ => rfl, fun hr => absurd hr (by simp [hdis]), hl.detached, hl.seq, hl.reset, hl.timer,
        hl.out, hl.unheld, hl.deferred, hl.short, hl.exchanging, hl.waiting, hl.pending, hl.batch⟩, hl.rel, hl.room⟩, hl.serves⟩
    · rename_i hne
      refine loseTarget_coherent hs (enable := l.enable) hl h1 ?_ (fun _ => rfl) (.inr rfl)
      simpa using mt hl.disabled.2 hne
  · exact hs

/-! ### CONFIG (R185, R186) -/

theorem withValue_portEnable_of_ne {item : Byte} (hitem : item ≠ 6) (hrange : configItem item = true) (c : PortConfig) (value : Byte) :
    (c.withValue item value).portEnable = c.portEnable := by
  unfold PortConfig.withValue
  unfold configItem at hrange
  split_ifs with h0 h1 h2 h3 h4 h5
  case neg =>
    simp only [decide_eq_true_eq] at hrange
    exfalso
    bv_omega
  all_goals rfl

theorem configSet_coherent {s : State} (hs : s.targetsCoherent) (t : Index) {item value : Byte} (hitem : configItem item = true)
    (hvalue : configValue item value = true) (hchange : (s.cfg t).value item ≠ value) :
    ((s.modCfg t fun c => c.withValue item value).configChanged t item value).targetsCoherent := by
  have hl := fits_of_coherent hs t
  have h0 := Moves.refl s t
  have hpresent : (s.port t).present = (s.target t).look.present := rfl
  have henable : (s.cfg t).portEnable = (s.target t).look.enable := rfl
  generalize (s.target t).look = l at hl h0 hpresent henable
  by_cases h6 : item = 6
  · subst h6
    have h1 := h0.modCfg (fun c => c.withValue 6 value) fun l => { l with enable := value != 0 }
    unfold configChanged
    rw [if_pos rfl, modCfg_port, hpresent]
    by_cases hv : value = 0
    · subst hv
      rw [if_pos rfl]
      refine loseTarget_coherent hs (present := l.present) (enable := false) hl h1 (by simp) (by simp) (.inl rfl)
    · have hoff : l.enable = false := by
        have hval : (s.cfg t).value 6 = flagByte l.enable := by rw [← henable]; rfl
        rw [hval] at hchange
        cases hen : l.enable with
        | false => rfl
        | true =>
          rw [hen] at hchange
          unfold configValue at hvalue
          have h1' : value.toNat ≤ 1 := by simpa using hvalue
          exact absurd (show flagByte true = value by unfold flagByte; rw [if_pos rfl]; bv_omega) hchange
      have hlinkDis := hl.disabled.2 hoff
      have hon : (value != 0) = true := by simpa using hv
      rw [if_neg hv]
      split
      · rename_i hp
        refine h1.attach.coherent hs ?_
        exact hl.probing (by simp [hlinkDis]) hp hon
      · rename_i hp
        have h2 := h1.modPort (fun p => { p with link := .absent }) fun l => { l with link := .absent }
        refine h2.coherent hs ?_
        have hrun := hl.run_of_link (by simp [hlinkDis])
        have := (hl.unlinked (link := .absent) (present := l.present) (enable := value != 0) (by
          rw [hon]; simp) (fun _ => by simpa using hp) (.inr rfl)).1 hrun
        have hout : l.out = none := by
          have := hl.out
          simpa [Look.outFits, hrun, hlinkDis] using this
        rwa [← hout] at this
  · have h1 := h0.modCfg (fun c => c.withValue item value) id fun y => by
      unfold Target.look
      rw [withValue_portEnable_of_ne h6 hitem]
      rfl
    unfold configChanged
    rw [if_neg h6]
    exact h1.coherent hs hl

theorem takeConfigSet_coherent {s : State} (hs : s.targetsCoherent) (n : Index) (tag : Byte) (t : Index) (item value : Byte) :
    (s.takeConfigSet n tag t item value).targetsCoherent := by
  unfold State.takeConfigSet
  split
  · exact ((looksAs.refl s).respondPlain n tag _ _).coherent hs
  · rename_i hnone
    unfold configRefusal? at hnone
    split at hnone
    · exact absurd hnone (by simp)
    rename_i hitem
    split at hnone
    · exact absurd hnone (by simp)
    split at hnone
    · exact absurd hnone (by simp)
    rename_i hvalue
    refine looksAs.coherent ((looksAs.refl _).respondNow n _) ?_
    split
    · exact hs
    · rename_i hchange
      exact configSet_coherent hs t (by simpa using hitem) (by simpa using hvalue) hchange

/-! ### The end of a session (R123) -/

theorem endInRunControl_coherent {s : State} (hs : s.targetsCoherent) (n t : Index) : (s.endInRunControl n t).targetsCoherent := by
  have hl := fits_of_coherent hs t
  have h0 := Moves.refl s t
  have hrun : (s.target t).look.run = (s.rc t).run := rfl
  have hheld : (s.target t).look.held = !(s.rc t).hold.isEmpty := rfl
  have h1 : s.Moves t (s.modRc t (withdrawRc n)) { (s.target t).look with held := !((s.rc t).hold.remove n).isEmpty } := by
    refine h0.modTarget _ ?_
    unfold Target.look withdrawRc rc
    simp only [Look.mk.injEq, true_and, and_true, Option.map_map]
    refine ⟨congrFun (congrArg _ (funext fun q => ?_)) _, congrFun (congrArg _ (funext fun q => ?_)) _⟩
    · simp only [Function.comp_apply]; split <;> rfl
    · simp only [Function.comp_apply]; split <;> rfl
  have hwithin := HoldSet.within_remove (s.rc t).hold n
  obtain ⟨l', h2, hl'⟩ : ∃ l', s.Moves t (if ((s.rc t).hold.has n && (s.rc t).run == .halted) = true then
      (s.modRc t (withdrawRc n)).afterHoldChange t else s.modRc t (withdrawRc n)) l' ∧ l'.Fits := by
    cases hwas : (s.rc t).hold.has n with
    | false =>
      refine ⟨_, h1, ?_⟩
      rw [HoldSet.remove_of_not_has hwas, ← hheld]
      exact hl
    | true =>
      simp only [Bool.true_and, beq_iff_eq]
      rw [← hrun]
      exact h1.holdLost hl (held_of_within hwithin)
  exact (h2.looksAs (((looksAs.refl _).dropLock t).choice (looksAs.refl _))).coherent hs hl'

theorem flying_withdrawAcc {n : Index} {es : List AccEntry} (hwait : ∀ b ∈ (es.map (·.inFlight)).tail, b = false) :
    (∀ b ∈ ((withdrawAcc n es).map (·.inFlight)).tail, b = false) ∧ ((withdrawAcc n es).map (·.inFlight)).length ≤ es.length ∧
      (match (withdrawAcc n es).map (·.inFlight) with | b :: _ => b | [] => false) =
        (match es.map (·.inFlight) with | b :: _ => b | [] => false) := by
  have hmap : (withdrawAcc n es).map (·.inFlight) = (es.filter fun e => e.session != n || e.inFlight).map (·.inFlight) := by
    unfold withdrawAcc
    rw [List.map_map]
    refine List.map_congr_left fun e _ => ?_
    simp only [Function.comp_apply]
    split <;> rfl
  rw [hmap]
  cases es with
  | nil => simp
  | cons e es =>
    have hrest (b : Bool) (hb : b ∈ (es.filter fun e => e.session != n || e.inFlight).map (·.inFlight)) : b = false :=
      hwait b (((List.filter_sublist).map _).subset hb)
    rw [List.filter_cons]
    split
    · refine ⟨hrest, ?_, rfl⟩
      simpa using List.length_filter_le _ es
    · rename_i hout
      have hoff : e.inFlight = false := by
        simp only [Bool.or_eq_true, not_or] at hout
        simpa using hout.2
      refine ⟨fun b hb => hrest b (List.mem_of_mem_tail hb), ?_, ?_⟩
      · simpa using (List.length_filter_le _ es).trans (Nat.le_succ _)
      · rw [List.map_cons, hoff]
        cases hq : (es.filter fun e => e.session != n || e.inFlight).map (·.inFlight) with
        | nil => rfl
        | cons b bs => exact hrest b (by rw [hq]; simp)

/-- A queue with the same head mark, no longer, and nothing in flight behind the head. -/
theorem fits_of_sameHead {l : Look} (hl : l.Fits) {flying : List Bool} (hshort : flying.length ≤ 8) (hwait : ∀ b ∈ flying.tail, b = false)
    (hhead : ({ l with flying } : Look).inFlight = l.inFlight) : ({ l with flying } : Look).Fits where
  toSound := hl.toSound.access hshort (hhead ▸ hl.exchanging) hwait (fun hr => hhead.trans (hl.pending hr)) hl.batch
  rel := hl.rel
  room hr hf := hl.room hr (hhead.symm.trans hf)
  serves hr := hhead.trans (hl.serves hr)

theorem endInAccess_coherent {s : State} (hs : s.targetsCoherent) (n t : Index) : (s.endInAccess n t).targetsCoherent := by
  have hl := fits_of_coherent hs t
  have h1 : s.Moves t (s.modAcc t fun a => { a with queue := withdrawAcc n (s.acc t).queue })
      { (s.target t).look with flying := (withdrawAcc n (s.acc t).queue).map (·.inFlight) } :=
    (Moves.refl s t).modTarget _ rfl
  obtain ⟨hwait, hlen, hhead⟩ := flying_withdrawAcc (n := n) (es := (s.acc t).queue) hl.waiting
  have hshort : (s.acc t).queue.length ≤ 8 := by
    have : ((s.acc t).queue.map (·.inFlight)).length ≤ 8 := hl.short
    simpa using this
  have hfits := fits_of_sameHead hl (hlen.trans hshort) hwait hhead
  have hdone := h1.coherent hs hfits
  unfold State.endInAccess
  simp only
  split
  · split
    · exact h1.examine_coherent hs hfits.toReady
    · exact hdone
  · exact hdone

theorem takeEnd_coherent {s : State} (hs : s.targetsCoherent) (n : Index) (c : EndCause) (b : EndBlock) :
    (s.takeEnd n c b).targetsCoherent := by
  cases b with
  | runControl t => exact endInRunControl_coherent hs n t
  | breakTable =>
    have hall (ts : List Index) : ∀ y : State, s.looksAs y → s.looksAs (ts.foldl (fun s' t => s'.watchSince s t) y) := by
      induction ts with
      | nil => exact fun _ hy => hy
      | cons t ts ih => exact fun _ hy => ih _ (hy.watchSince s t)
    have hlooks : s.looksAs (s.endInBreakTable n) := hall indices _ ((looksAs.refl s).dropRecords fun r => r.owner == n)
    exact hlooks.coherent hs
  | access t => exact endInAccess_coherent hs n t
  | notices => exact hs
  | linkUnit => exact hs

theorem endSession_coherent {s : State} (hs : s.targetsCoherent) (n : Index) (c : EndCause) : (s.endSession n c).targetsCoherent := by
  cases ho : s.isOpen n with
  | false => rwa [endSession_of_closed s n c ho]
  | true =>
    obtain ⟨order, -, heq⟩ := s.endSession_eq n c ho
    rw [heq]
    have hall (bs : List EndBlock) : ∀ y : State, y.targetsCoherent → (bs.foldl (takeEnd n c) y).targetsCoherent := by
      induction bs with
      | nil => exact fun _ hy => hy
      | cons b bs ih => exact fun _ hy => ih _ (takeEnd_coherent hy n c b)
    exact hall order _ hs

end State

end Sys2Proof.Machine
end

section
/-! PROOF. Reports, timers, fires and a hub reset leave every target coherent, and so does every step; with that, every step keeps the
windows. -/

namespace Sys2Proof.Machine

namespace Look

/-- An ACTIVE port's target in a run state without a record of its own. -/
theorem Fits.enters {l : Look} (h : l.Fits) (hlink : l.link = .probing ∨ l.link = .active) {out : Option RcMsg} {run : RunState}
    {seq : Option Bool} {reset : Option ResetPhase} {timer held relDefer : Bool}
    (hrun : run ≠ .detached ∧ run ≠ .stepping ∧ run ≠ .resetting ∧ run ≠ .svcPending) (hseq : seq = none) (hreset : reset = none)
    (htimer : timer = false) (hout : ({ l with link := .active, out, run, seq, reset } : Look).outFits)
    (hheld : run = .running → held = false) (hdefer : relDefer = true → run = .halted) :
    ({ l with link := .active, out, run, seq, reset, timer, held, relDefer } : Look).Sound := by
  obtain ⟨hdet, hstep, hres, hpend⟩ := hrun
  subst hseq hreset htimer
  have henable : l.enable = true := by
    have := mt h.disabled.2 (by rcases hlink with hp | hp <;> simp [hp])
    simpa using this
  refine ⟨by simp [henable], by simp, fun _ => h.attached hlink, by simp [hdet], by simp [hstep], by simp [hres], by simp, hout, ?_, hdefer,
    h.short, h.exchanging, h.waiting, fun hr => absurd hr hpend, h.batch⟩
  rintro (hr | hr)
  · exact hheld hr
  · exact absurd hr hpend

/-- An entry to HALTED by a report. -/
theorem Fits.entersHalted {l : Look} (h : l.Fits) (hlink : l.link = .probing ∨ l.link = .active) {run : RunState} {seq : Option Bool}
    {reset : Option ResetPhase} {timer : Bool} (held : Bool) {relDefer : Bool} (hseq : seq = none) (hreset : reset = none)
    (htimer : timer = false) :
    ({ l with link := .active, out := none, run, seq, reset, timer, held, relDefer } : Look).halted.Fits :=
  (h.enters hlink (run := .halted) (relDefer := relDefer) (by simp) hseq hreset htimer rfl (by simp) fun _ => rfl).halted

/-- A target found running: RUNNING where nobody holds it, else STOPPING. -/
theorem Fits.entersRunning {l : Look} (h : l.Fits) (hlink : l.link = .probing ∨ l.link = .active) {run : RunState} {seq : Option Bool}
    {reset : Option ResetPhase} {timer held relDefer : Bool} (hseq : seq = none) (hreset : reset = none) (htimer : timer = false) {l' : Look}
    (hl' : l' = { l with link := .active, out := none, run, seq, reset, timer, held, relDefer }) :
    (if l'.held then { l' with out := some .stop, relDefer := false, run := .stopping } else { l' with run := .running, relDefer := false } :
      Look).Fits := by
  subst hl'
  split
  · exact ((h.enters hlink (out := some .stop) (run := .stopping) (by simp) hseq hreset htimer (Or.inl rfl)
      (by simp) (by simp)).ready (by simp) (by simp)).fits (by simp)
  · rename_i hno
    exact ((h.enters hlink (out := none) (run := .running) (by simp) hseq hreset htimer rfl
      (fun _ => by simpa using hno) (by simp)).ready (by simp) (by simp)).fits (by simp)

/-- The look of a target whose report the port takes: the message that it answers is no longer outstanding, and the port is ACTIVE. -/
def reported (answers : RcMsg → Bool) (l : Look) : Look := { l with link := .active, out := l.out.filter fun m => !answers m }

/-- A report that answers nothing on an ACTIVE port. -/
theorem reported_eq {answers : RcMsg → Bool} {l : Look} (hlink : l.link = .active) (hout : l.out.filter (fun m => !answers m) = l.out) :
    l.reported answers = l := by
  unfold reported
  rw [hout, ← hlink]

end Look

namespace State

/-! ### Reports (R14 to R18, R22, R31, R32) -/

namespace Moves

variable {s x : State} {t : Index} {l : Look}

theorem setPc (h : s.Moves t x l) (pc : Addr) : s.Moves t (x.setPc t pc) l := h.modRc _ id

theorem selfJoins (h : s.Moves t x l) : s.Moves t (x.selfJoins t) { l with held := true } :=
  h.modRc _ (fun l => { l with held := true }) fun y => by
    unfold Target.look
    simp [HoldSet.isEmpty_addSelf]

theorem selfJoinsIfEmpty (h : s.Moves t x l) : s.Moves t (x.selfJoinsIfEmpty t) { l with held := true } := by
  unfold State.selfJoinsIfEmpty
  rw [h.held_eq]
  by_cases hh : l.held = true
  · rw [if_neg (by simp [hh])]
    have hsame : ({ l with held := true } : Look) = l := by rw [← hh]
    rw [hsame]
    exact h
  · rw [if_pos (by simp [hh])]
    exact h.selfJoins

theorem watchAfterReport (h : s.Moves t x l) (before : State) : s.Moves t (x.watchAfterReport before t) l := by
  have hrewatch {y : State} (hy : s.Moves t y l) : s.Moves t (y.rewatch t) l := by
    have h1 := hy.modPort (fun p => { p with watchOwed := false }) id
    unfold State.rewatch
    simp only
    split
    · exact h1.sendWatch
    · exact h1
  have hactive {y : State} (hy : s.Moves t y l) : s.Moves t (y.watchAtActive t) l := by
    unfold State.watchAtActive
    split
    · exact hy
    · exact hy.sendWatch
  have h1 : s.Moves t (match before.outstandingMsg t with
      | some (.rstOff _) => (x.modPort t fun p => { p with watchEnable := false }).rewatch t
      | _ => if (before.port t).watchOwed then x.rewatch t else x) l := by
    split
    · exact hrewatch (h.modPort _ id)
    · split
      · exact hrewatch h
      · exact h
  unfold State.watchAfterReport
  simp only
  split
  · exact hactive h1
  · exact h1

theorem replaceSeq (h : s.Moves t x l) (q : StepSeq) :
    s.Moves t (x.modRc t fun r => { r with stepSeq := some q }) { l with seq := some q.outstanding } :=
  h.modRc (fun r => { r with stepSeq := some q }) fun l => { l with seq := some q.outstanding }

end Moves

theorem discards_iff {s : State} {t : Index} : s.discardsReports t = true ↔
    (s.target t).look.run = .resetting ∧ (s.target t).look.reset = some .holding := by
  unfold discardsReports
  show _ ↔ (s.rc t).run = .resetting ∧ (s.rc t).resetRec.map (·.phase) = some .holding
  split
  · rename_i q hrun hq
    rw [hrun, hq]
    cases hph : q.phase <;> simp [hph]
  · rename_i hno
    refine iff_of_false (by simp) ?_
    rintro ⟨hrun, hreset⟩
    obtain ⟨q, hq, -⟩ := Option.map_eq_some_iff.1 hreset
    exact hno q hrun hq

/-- The state in which the Run Control Unit takes a report: the message it answers is not outstanding, and an attach has become ACTIVE. -/
def reportTaken (s : State) (t : Index) (answers : RcMsg → Bool) : State :=
  let s1 := match s.outstandingMsg t with
    | some m => if answers m then s.clearOutstanding t else s
    | none => s
  if (s.port t).link == .probing then s1.modPort t fun p => { p with link := .active } else s1

theorem takeReport_eq (s : State) (t : Index) (answers : RcMsg → Bool) (f : Bool → State → State) :
    s.takeReport t answers f = if s.discardsReports t then s.reportTaken t answers else
      ((f ((s.port t).link == .probing) (s.reportTaken t answers)).watchAfterReport s t).examineSince s t := rfl

theorem reportTaken_moves (s : State) (t : Index) (answers : RcMsg → Bool)
    (hup : (s.target t).look.link = .probing ∨ (s.target t).look.link = .active) :
    s.Moves t (s.reportTaken t answers) ((s.target t).look.reported answers) := by
  have h0 := Moves.refl s t
  have hlink : (s.port t).link = (s.target t).look.link := rfl
  have hout : s.outstandingMsg t = (s.target t).look.out := rfl
  generalize (s.target t).look = l at h0 hlink hout hup
  have h1 : s.Moves t (match s.outstandingMsg t with
      | some m => if answers m then s.clearOutstanding t else s
      | none => s) { l with out := l.out.filter fun m => !answers m } := by
    rw [hout]
    cases hm : l.out with
    | none =>
      have hsame : ({ l with out := none } : Look) = l := by rw [← hm]
      rw [Option.filter_none, hsame]
      exact h0
    | some m =>
      simp only
      split
      · rename_i ha
        rw [Option.filter_some, ha]
        exact h0.clearOutstanding
      · rename_i ha
        have hsame : ({ l with out := some m } : Look) = l := by rw [← hm]
        rw [Option.filter_some, if_pos (by simpa using ha), hsame]
        exact h0
  unfold reportTaken
  simp only
  split
  · exact h1.modPort _ fun l => { l with link := .active }
  · rename_i hnot
    rw [hlink] at hnot
    have hactive : l.link = .active := hup.resolve_left (by simpa using hnot)
    have hsame : l.reported answers = { l with out := l.out.filter fun m => !answers m } := by unfold Look.reported; rw [← hactive]
    rw [hsame]
    exact h1

theorem up_of_reportsArrive {s : State} {t : Index} (h : s.reportsArrive t = true) :
    (s.target t).look.link = .probing ∨ (s.target t).look.link = .active := by
  unfold reportsArrive at h
  show (s.port t).link = .probing ∨ (s.port t).link = .active
  revert h
  cases (s.port t).link <;> simp

/-- A report leaves the targets coherent when the Run Control Unit's part of it does. -/
theorem takeReport_coherent {s : State} (hs : s.targetsCoherent) {t : Index} (harrives : s.reportsArrive t = true) (answers : RcMsg → Bool)
    (f : Bool → State → State)
    (hf : ∀ x : State, ((s.target t).look.run = .resetting → (s.target t).look.reset ≠ some .holding) →
      s.Moves t x ((s.target t).look.reported answers) → ∃ l', s.Moves t (f ((s.port t).link == .probing) x) l' ∧ l'.Ready ∧
        (l'.run = (s.target t).look.run → l'.Fits)) :
    (s.takeReport t answers f).targetsCoherent := by
  have hl := fits_of_coherent hs t
  have hup := up_of_reportsArrive harrives
  have h2 := s.reportTaken_moves t answers hup
  have hdiscards := discards_iff (s := s) (t := t)
  rw [takeReport_eq]
  split
  · rename_i hdis
    obtain ⟨hr, hhold⟩ := hdiscards.1 hdis
    have hnone : (s.target t).look.out = none := by
      have := hl.out
      simpa [Look.outFits, hr, hhold] using this
    have hactive : (s.target t).look.link = .active := by
      by_contra hne
      simp [hl.run_of_link hne] at hr
    rw [Look.reported_eq hactive (by rw [hnone]; rfl)] at h2
    exact h2.coherent hs hl
  · rename_i hkeep
    obtain ⟨l', h3, hready, hsame⟩ := hf _ (fun hr hhold => hkeep (hdiscards.2 ⟨hr, hhold⟩)) h2
    have h4 := h3.watchAfterReport s
    unfold State.examineSince
    split
    · rename_i heq
      rw [h4.run_eq] at heq
      exact h4.coherent hs (hsame heq)
    · exact h4.examine_coherent hs hready

/-- A report whose part in the Run Control Unit leaves the target coherent. -/
theorem ready_of_fits {s x : State} {t : Index} {l l' : Look} (h : s.Moves t x l') (hl : l'.Fits) :
    ∃ l'', s.Moves t x l'' ∧ l''.Ready ∧ (l''.run = l.run → l''.Fits) := ⟨l', h, hl.toReady, fun _ => hl⟩

theorem haltedByRun_fits {s x : State} {t : Index} {l : Look} (hl : l.Fits) (hup : l.link = .probing ∨ l.link = .active)
    (hnot : l.run = .resetting → l.reset ≠ some .holding) (h : s.Moves t x (l.reported RcMsg.answeredByHalted)) (self step : Bool) (pc : Addr) :
    ∃ l', s.Moves t (x.haltedByRun t self step (l.link == .probing) pc) l' ∧ l'.Ready ∧ (l'.run = l.run → l'.Fits) := by
  have hrun : (x.rc t).run = l.run := h.run_eq
  have hout := hl.out
  have hactive (hne : l.run ≠ .detached) : l.link = .active := by
    by_contra hno
    exact hne (hl.run_of_link hno)
  have hpc := h.setPc pc
  have hclear (hm : l.out = none ∨ ∃ m, l.out = some m ∧ m.answeredByHalted = true) :
      l.out.filter (fun m => !m.answeredByHalted) = none := by
    rcases hm with hm | ⟨m, hm, ha⟩ <;> simp [*]
  have hhalt {y : State} (b : Bool) (c : HaltCause) (hstep : l.run ≠ .stepping) (hres : l.run ≠ .resetting)
      (hy : s.Moves t y { l with link := .active, out := none, held := b }) :
      ∃ l', s.Moves t (y.enterHalted t c) l' ∧ l'.Ready ∧ (l'.run = l.run → l'.Fits) :=
    ready_of_fits (hy.enterHalted c) (hl.entersHalted hup b (hl.toSound.seq_none hstep) (hl.toSound.reset_none hres)
      (hl.toSound.timer_false hres))
  have hselfHalt (c : HaltCause) (hstep : l.run ≠ .stepping) (hres : l.run ≠ .resetting)
      (hm : l.out = none ∨ ∃ m, l.out = some m ∧ m.answeredByHalted = true) :
      (∃ l', s.Moves t (((x.setPc t pc).selfJoins t).enterHalted t c) l' ∧ l'.Ready ∧ (l'.run = l.run → l'.Fits)) ∧
        (∃ l', s.Moves t (((x.setPc t pc).selfJoinsIfEmpty t).enterHalted t c) l' ∧ l'.Ready ∧ (l'.run = l.run → l'.Fits)) ∧
        ∃ l', s.Moves t ((x.setPc t pc).enterHalted t c) l' ∧ l'.Ready ∧ (l'.run = l.run → l'.Fits) := by
    unfold Look.reported at hpc
    rw [hclear hm] at hpc
    exact ⟨hhalt true c hstep hres hpc.selfJoins, hhalt true c hstep hres hpc.selfJoinsIfEmpty, hhalt l.held c hstep hres hpc⟩
  have hstill (hne : l.run ≠ .detached) (hm : l.out = none) {y : State} (hy : s.Moves t y (l.reported RcMsg.answeredByHalted)) :
      ∃ l', s.Moves t y l' ∧ l'.Ready ∧ (l'.run = l.run → l'.Fits) := by
    rw [Look.reported_eq (hactive hne) (by rw [hm]; rfl)] at hy
    exact ready_of_fits hy hl
  unfold State.haltedByRun
  unfold Look.outFits at hout
  rw [hrun]
  cases hr : l.run <;> rw [hr] at hout hnot <;> simp only at hout ⊢
  case detached =>
    have hprobing : l.link = .probing := hup.resolve_right fun ha => by simpa [ha, hr] using hl.detached
    rw [if_pos hprobing] at hout
    rw [hprobing, if_pos (by rfl), ← hr]
    exact (hselfHalt _ (by simp [hr]) (by simp [hr]) (.inr ⟨_, hout, rfl⟩)).2.1
  case running => rw [← hr]; exact (hselfHalt _ (by simp [hr]) (by simp [hr]) (.inl hout)).1
  case stopping =>
    have hm : ∃ m, l.out = some m ∧ m.answeredByHalted = true := by
      rcases hout with hout | hout <;> exact ⟨_, hout, rfl⟩
    rw [← hr]
    split
    · exact (hselfHalt _ (by simp [hr]) (by simp [hr]) (.inr hm)).1
    · exact (hselfHalt _ (by simp [hr]) (by simp [hr]) (.inr hm)).2.2
  case halted => rw [← hr]; exact hstill (by simp [hr]) hout hpc
  case releasing => rw [← hr]; exact (hselfHalt _ (by simp [hr]) (by simp [hr]) (.inr ⟨_, hout, rfl⟩)).1
  case service => rw [← hr]; exact (hselfHalt _ (by simp [hr]) (by simp [hr]) (.inl hout)).1
  case unresponsive => rw [← hr]; exact (hselfHalt _ (by simp [hr]) (by simp [hr]) (.inl hout)).2.1
  case svcPending =>
    have h1 := ((h.cancelService).setPc pc).selfJoins
    rw [← hr]
    exact hhalt true _ (by simp [hr]) (by simp [hr]) h1
  case stepping =>
    have hseq := h.seq_eq
    have hreset := hl.toSound.reset_none (by simp [hr])
    have htimer := hl.toSound.timer_false (by simp [hr])
    rw [← hr]
    unfold State.haltedInStepping
    cases hq : (x.rc t).stepSeq with
    | none =>
      have hnone : l.seq = none := by
        rw [hq] at hseq
        exact hseq.symm
      rw [hnone] at hout
      exact hstill (by simp [hr]) (by simpa using hout) hpc
    | some q =>
      have hsome : l.seq = some q.outstanding := by
        rw [hq] at hseq
        exact hseq.symm
      simp only
      cases hqo : q.outstanding with
      | false =>
        rw [hsome, hqo] at hout
        exact hstill (by simp [hr]) (by simpa using hout) hpc
      | true =>
        have hstep : l.out = some .step := by
          rw [hsome, hqo] at hout
          simpa using hout
        unfold Look.reported at hpc
        rw [hclear (.inr ⟨_, hstep, rfl⟩)] at hpc
        simp only [Bool.not_true, Bool.false_eq_true, if_false]
        set q1 : StepSeq := { q with
          outstanding := false, done := if step then q.done + 1 else q.done, interrupted := q.interrupted || (self || !step) } with hq1
        have h1 := hpc.replaceSeq q1
        obtain ⟨b, h2⟩ : ∃ b, s.Moves t (if (self || !step) = true then
            ((x.setPc t pc).modRc t fun r => { r with stepSeq := some q1 }).selfJoins t
            else (x.setPc t pc).modRc t fun r => { r with stepSeq := some q1 })
            { l with link := .active, out := none, seq := some false, held := b } := by
          split
          · exact ⟨true, h1.selfJoins⟩
          · exact ⟨l.held, h1⟩
        generalize (if (self || !step) = true then
            ((x.setPc t pc).modRc t fun r => { r with stepSeq := some q1 }).selfJoins t
            else (x.setPc t pc).modRc t fun r => { r with stepSeq := some q1 }) = y at h2 ⊢
        split
        · refine ready_of_fits h2.sendStep ?_
          have hlink := hactive (by simp [hr])
          have := ((hl.toSound.change (out := some .step) (run := l.run) (seq := some true) (reset := l.reset) (timer := l.timer) (held := b)
            (relDefer := l.relDefer) Iff.rfl (by simp [hr]) hl.reset hl.timer (by simp [Look.outFits, hr]) (by simp [hr]) hl.deferred
            hl.pending).ready (by simp [hr]) (by simp [hr])).fits (by simp [hr])
          rw [← hlink]
          exact this
        · exact ready_of_fits (h2.endSeq _ (by simp)) (hl.entersHalted hup b rfl hreset htimer)
  case resetting =>
    have hreset := h.reset_eq
    have hseq := hl.toSound.seq_none (by simp [hr])
    rw [← hr]
    unfold State.haltedInReset
    cases hq : (x.rc t).resetRec with
    | none =>
      rw [hq] at hreset
      have : l.reset = none := hreset.symm
      have := hl.reset.2 hr
      simp_all
    | some q =>
      have hsome : l.reset = some q.phase := by
        rw [hq] at hreset
        exact hreset.symm
      cases hph : q.phase with
      | holding => exact absurd (hsome.trans (by rw [hph])) (hnot rfl)
      | released flag =>
        rw [hsome, hph] at hout
        have hnoTimer : (l.timer && l.reset.isNone) = false := by rw [hsome]; simp
        unfold Look.reported at hpc
        rw [hclear (.inr ⟨_, hout, rfl⟩)] at hpc
        simp only [hph]
        obtain ⟨b, h1⟩ : ∃ b, s.Moves t (if flag = true then x.setPc t pc else (x.setPc t pc).selfJoins t)
            { l with link := .active, out := none, held := b } := by
          split
          · exact ⟨l.held, hpc⟩
          · exact ⟨true, hpc.selfJoins⟩
        exact ready_of_fits ((h1.endReset _ _).enterHalted _) (hl.entersHalted hup b hseq rfl hnoTimer)

theorem runningByRun_fits {s x : State} {t : Index} {l : Look} (hl : l.Fits) (hup : l.link = .probing ∨ l.link = .active)
    (hnot : l.run = .resetting → l.reset ≠ some .holding) (h : s.Moves t x (l.reported RcMsg.answeredByRunning)) :
    ∃ l', s.Moves t (x.runningByRun t (l.link == .probing)) l' ∧ l'.Ready ∧ (l'.run = l.run → l'.Fits) := by
  have hrun : (x.rc t).run = l.run := h.run_eq
  have hout := hl.out
  have hactive (hne : l.run ≠ .detached) : l.link = .active := by
    by_contra hno
    exact hne (hl.run_of_link hno)
  have hcleared (hm : l.out = none ∨ ∃ m, l.out = some m ∧ m.answeredByRunning = true) :
      l.reported RcMsg.answeredByRunning = { l with link := .active, out := none } := by
    unfold Look.reported
    rcases hm with hm | ⟨m, hm, ha⟩
    · rw [hm]; rfl
    · rw [hm, Option.filter_some, ha]; rfl
  have hstill (hne : l.run ≠ .detached) (hm : ∀ m, l.out = some m → m.answeredByRunning = false) :
      ∃ l', s.Moves t x l' ∧ l'.Ready ∧ (l'.run = l.run → l'.Fits) := by
    have hkeep : l.out.filter (fun m => !m.answeredByRunning) = l.out := by
      cases ho : l.out with
      | none => rfl
      | some m => rw [Option.filter_some, hm m ho]; rfl
    rw [Look.reported_eq (hactive hne) hkeep] at h
    exact ready_of_fits h hl
  have hgo (hstep : l.run ≠ .stepping) (hres : l.run ≠ .resetting) (hm : l.out = none ∨ ∃ m, l.out = some m ∧ m.answeredByRunning = true) :
      ∃ l', s.Moves t (x.runOrStop t) l' ∧ l'.Ready ∧ (l'.run = l.run → l'.Fits) := by
    rw [hcleared hm] at h
    exact ready_of_fits h.runOrStop (hl.entersRunning hup (hl.toSound.seq_none hstep) (hl.toSound.reset_none hres)
      (hl.toSound.timer_false hres) rfl)
  unfold State.runningByRun
  unfold Look.outFits at hout
  rw [hrun]
  cases hr : l.run <;> rw [hr] at hout hnot <;> simp only at hout ⊢
  case detached =>
    have hprobing : l.link = .probing := hup.resolve_right fun ha => by simpa [ha, hr] using hl.detached
    rw [if_pos hprobing] at hout
    rw [hprobing, if_pos (by rfl), ← hr]
    exact hgo (by simp [hr]) (by simp [hr]) (.inr ⟨_, hout, rfl⟩)
  case running => rw [← hr]; exact hstill (by simp [hr]) fun m hm => by simp [hout] at hm
  case stopping =>
    rw [← hr]
    refine hstill (by simp [hr]) fun m hm => ?_
    rcases hout with hout | hout <;> (rw [hout] at hm; cases hm; rfl)
  case halted =>
    have h1 := h
    rw [hcleared (.inl hout)] at h1
    have h2 := h1.modRc (fun r => { r with relDefer := false }) fun l => { l with relDefer := false }
    rw [← hr]
    exact ready_of_fits h2.runOrStop (hl.entersRunning hup (hl.toSound.seq_none (by simp [hr])) (hl.toSound.reset_none (by simp [hr]))
      (hl.toSound.timer_false (by simp [hr])) rfl)
  case releasing =>
    have h1 := h
    rw [hcleared (.inr ⟨_, hout, rfl⟩)] at h1
    have hfits := hl.entersRunning hup (hl.toSound.seq_none (by simp [hr])) (hl.toSound.reset_none (by simp [hr]))
      (hl.toSound.timer_false (by simp [hr])) (l' := { l with link := .active, out := none }) rfl
    rw [← hr, h1.held_eq]
    simp only at hfits ⊢
    by_cases hh : l.held = true
    · rw [if_pos hh] at hfits
      rw [if_neg (by simp [hh])]
      exact ready_of_fits h1.answerResumes.stop hfits
    · rw [if_neg hh] at hfits
      rw [if_pos (by simp [hh])]
      exact ready_of_fits h1.enterRunning hfits
  case svcPending => rw [← hr]; exact hstill (by simp [hr]) fun m hm => by rw [hout] at hm; cases hm; rfl
  case service => rw [← hr]; exact hstill (by simp [hr]) fun m hm => by simp [hout] at hm
  case unresponsive => rw [← hr]; exact hgo (by simp [hr]) (by simp [hr]) (.inl hout)
  case stepping =>
    have hseq := h.seq_eq
    have hkept (hm : ∀ m, l.out = some m → m.answeredByRunning = false) := hstill (by simp [hr]) hm
    rw [← hr]
    unfold State.runningInStepping
    cases hq : (x.rc t).stepSeq with
    | none =>
      refine hkept fun m hm => ?_
      rw [hm] at hout
      split at hout
      · cases hout; rfl
      · exact absurd hout (by simp)
    | some q =>
      have hsome : l.seq = some q.outstanding := by
        rw [hq] at hseq
        exact hseq.symm
      simp only
      cases hqo : q.outstanding with
      | true =>
        rw [if_pos rfl]
        refine hkept fun m hm => ?_
        rw [hsome, hqo, hm] at hout
        cases hout
        rfl
      | false =>
        rw [hsome, hqo] at hout
        have h1 := h
        rw [hcleared (.inl (by simpa using hout))] at h1
        rw [if_neg (by simp), Orderly.respondStep_eq (q' := { q with outstanding := false, interrupted := true }) hq ⟨rfl, rfl, rfl, rfl⟩]
        exact ready_of_fits (h1.failSeq _).runOrStop (hl.entersRunning hup rfl (hl.toSound.reset_none (by simp [hr]))
          (hl.toSound.timer_false (by simp [hr])) rfl)
  case resetting =>
    have hreset := h.reset_eq
    rw [← hr]
    unfold State.runningInReset
    cases hq : (x.rc t).resetRec with
    | none =>
      rw [hq] at hreset
      have : l.reset = none := hreset.symm
      have := hl.reset.2 hr
      simp_all
    | some q =>
      have hsome : l.reset = some q.phase := by
        rw [hq] at hreset
        exact hreset.symm
      cases hph : q.phase with
      | holding => exact absurd (hsome.trans (by rw [hph])) (hnot rfl)
      | released flag =>
        rw [hsome, hph] at hout
        have hnoTimer : (l.timer && l.reset.isNone) = false := by rw [hsome]; simp
        have h1 := h
        rw [hcleared (.inr ⟨_, hout, rfl⟩)] at h1
        simp only [hph]
        exact ready_of_fits (h1.endReset _ _).runOrStop (hl.entersRunning hup (hl.toSound.seq_none (by simp [hr])) rfl hnoTimer rfl)

theorem takeHalted_coherent {s : State} (hs : s.targetsCoherent) (t : Index) (flags : Byte) (pc : Addr) :
    (s.takeHalted t flags pc).targetsCoherent := by
  unfold State.takeHalted
  split
  · rename_i harrives
    exact takeReport_coherent hs harrives _ _ fun x hnot hx =>
      haltedByRun_fits (fits_of_coherent hs t) (up_of_reportsArrive harrives) hnot hx _ _ pc
  · exact hs

theorem takeRunning_coherent {s : State} (hs : s.targetsCoherent) (t : Index) : (s.takeRunning t).targetsCoherent := by
  unfold State.takeRunning
  split
  · rename_i harrives
    exact takeReport_coherent hs harrives _ _ fun x hnot hx =>
      runningByRun_fits (fits_of_coherent hs t) (up_of_reportsArrive harrives) hnot hx
  · exact hs

end State

end Sys2Proof.Machine
end

section
/-! PROOF. Timers, grants, access replies, reference reports, slots and a hub reset leave every target coherent. -/

namespace Sys2Proof.Machine

namespace Look

/-- The reset timer is off once the reset record is gone. -/
theorem Sound.timer_cleared {l : Look} (h : l.Sound) : (l.timer && l.reset.isNone) = false := by
  cases ht : l.timer with
  | false => rfl
  | true => simp [h.timer.1 ht]

theorem Fits.up_of_out {l : Look} (h : l.Fits) {m : RcMsg} (hm : l.out = some m) : l.link = .probing ∨ l.link = .active := by
  by_cases hrun : l.run = .detached
  · have hout := h.out
    unfold outFits at hout
    rw [hrun, hm] at hout
    simp only at hout
    split at hout
    · exact .inl ‹_›
    · exact absurd hout (by simp)
  · have := mt h.detached.2 hrun
    exact .inr (by simpa using this)

/-- The look of a target that has not answered in time (R19). -/
def unresponsive (l : Look) : Look :=
  { l with run := .unresponsive, reset := none, timer := l.timer && l.reset.isNone, seq := none, relDefer := false }

theorem Sound.unresponsive {l : Look} (h : l.Sound) (hdet : l.run ≠ .detached) (hout : l.out = none) : l.unresponsive.Ready :=
  (h.change (out := l.out) (run := .unresponsive) (seq := none) (reset := none) (timer := l.timer && l.reset.isNone) (held := l.held)
    (relDefer := false) (by simp [hdet]) (by simp) (by simp) (by simp [h.timer_cleared]) hout (by simp) (by simp) (by simp)).ready (by simp)
    (by simp)

/-- The run state that an outstanding message tells (Table 1-2, R174). -/
theorem Fits.run_of_out {l : Look} (h : l.Fits) {m : RcMsg} (hm : l.out = some m) :
    (m = .svcReq → l.run = .svcPending) ∧ (m ≠ .probe → l.run ≠ .detached) := by
  have hout := h.out
  unfold outFits at hout
  rw [hm] at hout
  cases hr : l.run with
  | detached =>
    rw [hr] at hout
    simp only at hout
    split at hout <;> simp_all
  | stopping =>
    rw [hr] at hout
    rcases hout with ho | ho <;> simp_all
  | stepping =>
    rw [hr] at hout
    simp only at hout
    split at hout <;> simp_all
  | resetting =>
    rw [hr] at hout
    simp only at hout
    split at hout <;> simp_all
  | _ => simp_all

end Look

namespace State

/-! ### Timers of outstanding messages (R19, R89, R190) -/

theorem Moves.expireRc {s x : State} {t : Index} {l : Look} (h : s.Moves t x l) :
    s.Moves t (x.expireRc t) { l with out := none }.unresponsive := h.clearOutstanding.enterUnresponsive

theorem expireRc_ready {l : Look} (hl : l.Fits) {m : RcMsg} (hm : l.out = some m) (hne : m ≠ .probe) :
    ({ l with out := none } : Look).unresponsive.Ready := by
  have hdet := (hl.run_of_out hm).2 hne
  exact (hl.toSound.change (out := none) (run := .unresponsive) (seq := none) (reset := none) (timer := l.timer && l.reset.isNone)
    (held := l.held) (relDefer := false) (by simp [hdet]) (by simp) (by simp) (by simp [hl.toSound.timer_cleared]) rfl (by simp) (by simp)
    (by simp)).ready (by simp) (by simp)

theorem expireRc_coherent {s : State} (hs : s.targetsCoherent) {t : Index} {m : RcMsg} (hm : s.outstandingMsg t = some m)
    (hne : m ≠ .probe) : ((s.expireRc t).examine t).targetsCoherent :=
  (Moves.refl s t).expireRc.examine_coherent hs (expireRc_ready (fits_of_coherent hs t) hm hne)

theorem takeStopTimeout_coherent {s : State} (hs : s.targetsCoherent) (t : Index) : (s.takeStopTimeout t).targetsCoherent := by
  unfold takeStopTimeout
  split
  · exact expireRc_coherent hs ‹_› (by simp)
  · exact expireRc_coherent hs ‹_› (by simp)
  · exact expireRc_coherent hs ‹_› (by simp)
  · exact hs

theorem Moves.watchAtActive {s x : State} {t : Index} {l : Look} (h : s.Moves t x l) : s.Moves t (x.watchAtActive t) l := by
  unfold State.watchAtActive
  split
  · exact h
  · exact h.sendWatch

theorem takeRunTimeout_coherent {s : State} (hs : s.targetsCoherent) (t : Index) : (s.takeRunTimeout t).targetsCoherent := by
  have hl := fits_of_coherent hs t
  have h := (Moves.refl s t).expireRc
  unfold takeRunTimeout
  split
  · exact expireRc_coherent hs ‹_› (by simp)
  · rename_i hm
    have hm' : (s.target t).look.out = some .probe := hm
    have h1 := (h.modPort (fun p => { p with link := .active }) fun l => { l with link := .active }).watchAtActive
    exact h1.examine_coherent hs ((hl.enters (hl.up_of_out hm') (out := none) (run := .unresponsive) (relDefer := false) (by simp) rfl rfl
      hl.toSound.timer_cleared rfl (by simp) (by simp)).ready (by simp) (by simp))
  · rename_i hold hm
    have h1 := h.modPort (fun p => { p with watchEnable := false, watchOwed := true }) id
    exact h1.examine_coherent hs (expireRc_ready hl hm (by simp))
  · exact hs

theorem takeGrantTimeout_coherent {s : State} (hs : s.targetsCoherent) (t : Index) : (s.takeGrantTimeout t).targetsCoherent := by
  have hl := fits_of_coherent hs t
  unfold takeGrantTimeout
  split
  · rename_i hm
    have hrun := (hl.run_of_out hm).1 rfl
    have hex : (s.target t).look.exchanging = false := by
      have := hl.exchanging
      simpa [hl.pending hrun] using this
    have hdrop := hl.toSound.dropHead hl.batch
    rw [← hex] at hdrop
    have hheld := hl.unheld (.inr hrun)
    refine (((Moves.refl s t).cancelService.failHead .timeout).enterRunning).examine_coherent hs
      ((hdrop.enter (out := none) (run := .running) (held := (s.target t).look.held) (relDefer := false) ?_ ?_ ?_ ?_ ?_ ?_ rfl ?_ ?_
        ?_).ready ?_ ?_)
    all_goals simp [hrun, hheld]
  · exact hs

theorem takeResetHold_coherent {s : State} (hs : s.targetsCoherent) (t : Index) : (s.takeResetHold t).targetsCoherent := by
  have hl := fits_of_coherent hs t
  unfold takeResetHold
  split
  · rename_i q v hq hv
    have htimer : (s.target t).look.timer = true := by
      show (s.rc t).resetTimer.isSome = true
      rw [hv]
      rfl
    have hreset := hl.timer.1 htimer
    have hrun : (s.target t).look.run = .resetting := hl.reset.1 (by rw [hreset]; rfl)
    set flag := !(s.rc t).hold.isEmpty
    have h1 := (Moves.refl s t).modRc (fun r => { r with resetRec := some { q with phase := .released flag }, resetTimer := none })
      fun l => { l with reset := some (.released flag), timer := false }
    refine (h1.handRc (.rstOff flag)).coherent hs (((hl.toSound.change (out := some (.rstOff flag)) (run := (s.target t).look.run)
      (seq := (s.target t).look.seq) (reset := some (.released flag)) (timer := false) (held := (s.target t).look.held)
      (relDefer := (s.target t).look.relDefer) Iff.rfl hl.seq ?_ ?_ ?_ hl.unheld hl.deferred hl.pending).ready ?_ ?_).fits ?_)
    case refine_3 => simp [Look.outFits, hrun]
    all_goals simp [hrun]
  · exact hs

/-! ### Grants and access replies (R76 to R80, R85, R90) -/

theorem looksAs.lateGrant {s x : State} (h : s.looksAs x) (t : Index) : s.looksAs (x.lateGrant t) := by
  unfold State.lateGrant
  split
  · exact h.hand t _
  · exact h.hand t _
  · exact h.hand t _
  · exact h.hand t _
  all_goals exact h

theorem takeGrant_coherent {s : State} (hs : s.targetsCoherent) (t : Index) : (s.takeGrant t).targetsCoherent := by
  have hl := fits_of_coherent hs t
  unfold takeGrant
  split
  · split
    · rename_i hgrant
      have hrun : (s.target t).look.run = .svcPending := hgrant.1
      have h1 := (((Moves.refl s t).clearOutstanding.modAcc (fun a => { a with batch := 0 }) fun l => { l with batch := 0 }).setRun .service)
      have hsound := (hl.toSound.access hl.short hl.exchanging hl.waiting hl.pending (Nat.zero_le 4)).enter (out := none) (run := .service)
        (held := (s.target t).look.held) (relDefer := (s.target t).look.relDefer) (by simp [hrun]) (by simp [hrun]) (by simp [hrun])
        (by simp) (by simp) (by simp) rfl (by simp) (by simp [hl.toSound.relDefer_false, hrun]) (by simp)
      exact h1.examine_coherent hs ⟨hsound, fun hr => absurd hr (by simp), fun _ _ => by simp⟩
    · exact ((looksAs.refl s).lateGrant t).coherent hs
  · exact hs

/-- The Run Control Unit takes the end of an access (R7, R30). -/
theorem accessReport_ready {s x : State} {t : Index} {l : Look} (h : s.Moves t x l) (hl : l.Sound) (hrel : l.relFits)
    (hidle : l.inFlight = false) : ∃ l', s.Moves t (x.accessReport t) l' ∧ l'.Ready := by
  have hready : l.Ready := ⟨hl, hrel, fun _ hf => by simp [hidle] at hf⟩
  have hdefer : (x.rc t).relDefer = l.relDefer := by rw [← h.here]; rfl
  unfold accessReport
  simp only
  rw [hdefer, h.held_eq, h.run_eq]
  split
  · rename_i hd
    have hrun := hl.deferred hd
    have h1 := h.modRc (fun r => { r with relDefer := false }) fun l => { l with relDefer := false }
    have hsound : ({ l with relDefer := false } : Look).Sound :=
      hl.change (out := l.out) (run := l.run) (seq := l.seq) (reset := l.reset) (timer := l.timer) (held := l.held) Iff.rfl hl.seq hl.reset
        hl.timer hl.out hl.unheld (by simp) hl.pending
    split
    · exact ⟨_, h1.release, (hsound.released hrun).toReady⟩
    · rename_i hheld
      have hheld' : l.held = true := by simpa using hheld
      exact ⟨_, h1.answerResumes, hsound, fun _ hno => by simp [hheld'] at hno, fun _ hf => by simp [Look.inFlight] at hidle hf; simp_all⟩
  · split
    · rename_i q hr hq
      have hseq : l.seq = some q.outstanding := by rw [← h.seq_eq, hq]; rfl
      have hreset := hl.reset_none (by simp [hr])
      have htimer := hl.timer_false (by simp [hr])
      split
      · exact ⟨_, h, hready⟩
      · rename_i hq0
        split
        · have hsound : ({ l with out := some .step, seq := some true } : Look).Sound :=
            hl.change (out := some .step) (run := l.run) (seq := some true) (reset := l.reset) (timer := l.timer) (held := l.held)
              (relDefer := l.relDefer) Iff.rfl (by simp [hr]) hl.reset hl.timer (by simp [Look.outFits, hr]) hl.unheld hl.deferred hl.pending
          refine ⟨_, h.sendStep, ?_⟩
          rw [hseq]
          exact hsound.ready (by simp [hr]) (by simp [hr])
        · refine ⟨_, h.endSeq _ (by simp [hseq]), Look.Fits.toReady (Look.Sound.halted ?_)⟩
          have hout : l.out = none := by
            have := hl.out
            simp only [Look.outFits, hr, hseq] at this
            simpa [hq0] using this
          exact hl.change (out := l.out) (run := .halted) (seq := none) (reset := l.reset) (timer := l.timer) (held := l.held)
            (relDefer := l.relDefer) (by simp [hr]) (by simp) (by simp [hreset]) (by simp [hreset, htimer]) hout (by simp)
            (fun _ => rfl) (by simp)
    · exact ⟨_, h, hready⟩

theorem Look.inFlight_ne_nil {l : Look} (h : l.inFlight = true) : l.flying ≠ [] := by
  intro he
  simp [Look.inFlight, he] at h

/-- The look after the access in flight has left. -/
theorem endAccess_sound {l : Look} (hl : l.Fits) (hfly : l.inFlight = true) :
    ({ l with flying := l.flying.tail, exchanging := false, batch := if l.run = .service then l.batch + 1 else l.batch } : Look).Sound := by
  refine hl.toSound.dropHead ?_
  split
  · exact hl.room ‹_› hfly
  · exact hl.batch

theorem endByReply_coherent {s x : State} (hs : s.targetsCoherent) {t : Index} {l : Look} (h : s.Moves t x l) (hl : l.Fits)
    (hfly : l.inFlight = true) (st : Status) (payload : List Byte) : (x.endByReply t st payload).targetsCoherent := by
  obtain ⟨l', h1, hl'⟩ := accessReport_ready (h.endAccess st payload (Look.inFlight_ne_nil hfly)) (endAccess_sound hl hfly) hl.rel
    hl.toSound.tail_inFlight
  exact h1.examine_coherent hs hl'

theorem takeReply_coherent {s : State} (hs : s.targetsCoherent) (t : Index) (number result : Byte) (data : Word) :
    (s.takeReply t number result data).targetsCoherent := by
  have hl := fits_of_coherent hs t
  have h0 := Moves.refl s t
  unfold takeReply
  split
  · split
    · rename_i x e rest hx hq
      have hex : (s.target t).look.exchanging = true := by
        show (s.acc t).exchange.isSome = true
        rw [hx]
        rfl
      have hfly := hl.exchanging.1 hex
      have hflying : (s.target t).look.flying = e.inFlight :: (s.target t).look.flying.tail := by
        have : (s.target t).look.flying = (s.acc t).queue.map (·.inFlight) := rfl
        rw [this, hq]
        rfl
      split
      · have hend (st : Status) (payload : List Byte) := endByReply_coherent hs h0 hl hfly st payload
        unfold replyByPhase
        split
        · split
          · exact hend _ _
          · exact hend _ _
        · split
          · have h1 := h0.setHead (e := { e with written := true })
            have hsame : ({ (s.target t).look with flying := e.inFlight :: (s.target t).look.flying.tail } : Look) = (s.target t).look := by
              rw [← hflying]
            simp only [hsame] at h1
            simp only
            split
            · have h2 := h1.handAcc .read .readBack { e with written := true }
              have hsame' : ({ (s.target t).look with exchanging := true } : Look) = (s.target t).look := by rw [← hex]
              rw [hsame'] at h2
              exact h2.coherent hs hl
            · exact endByReply_coherent hs h1 hl hfly _ _
          · exact hend _ _
        · simp only
          split
          · exact hend _ _
          · exact hend _ _
      · exact hs
    · exact hs
  · exact hs

theorem stillHalted_eq (s : State) (t : Index) : s.stillHalted t = ((s.target t).look.run == .halted || (s.target t).look.run == .service ||
    (s.target t).look.run == .stepping && (s.target t).look.seq == some false) := by
  have hrun : (s.target t).look.run = (s.rc t).run := rfl
  have hseq : (s.target t).look.seq = (s.rc t).stepSeq.map (·.outstanding) := rfl
  rw [hrun, hseq]
  unfold stillHalted
  cases hr : (s.rc t).run with
  | stepping =>
    cases (s.rc t).stepSeq with
    | none => rfl
    | some q =>
      simp only [Option.map_some]
      cases q.outstanding <;> rfl
  | _ => rfl

theorem takeExchangeTimeout_coherent {s : State} (hs : s.targetsCoherent) (t : Index) : (s.takeExchangeTimeout t).targetsCoherent := by
  have hl := fits_of_coherent hs t
  unfold takeExchangeTimeout
  split
  · rename_i hex
    have hfly := hl.exchanging.1 hex
    have h1 := (Moves.refl s t).endAccess .timeout [] (Look.inFlight_ne_nil hfly)
    have hsound := endAccess_sound hl hfly
    simp only
    split
    · rename_i hstill
      rw [stillHalted_eq] at hstill
      refine h1.enterUnresponsive.examine_coherent hs (hsound.unresponsive ?_ ?_)
      · rintro hr
        simp only at hr
        simp [hr] at hstill
      · have hout := hl.out
        unfold Look.outFits at hout
        simp only [Bool.or_eq_true, Bool.and_eq_true, beq_iff_eq] at hstill
        show (s.target t).look.out = none
        rcases hstill with (hr | hr) | ⟨hr, hseq⟩
        · simpa [hr] using hout
        · simpa [hr] using hout
        · simpa [hr, hseq] using hout
    · exact h1.examine_coherent hs ⟨hsound, hl.rel, fun _ hf => absurd (hl.toSound.tail_inFlight.symm.trans hf) (by simp)⟩
  · exact hs

/-! ### Reference reports (R52 to R62) -/

theorem looksAs.modRecord {s x : State} (h : s.looksAs x) (k : Handle) (f : Record → Record) : s.looksAs (x.modRecord k f) :=
  h.trans fun _ => rfl

theorem applyAction_coherent {s : State} (hs : s.targetsCoherent) (x : Record) : (s.applyAction x).targetsCoherent := by
  unfold applyAction
  split
  · exact hs
  · split
    · exact claim_coherent hs _ _ _
    · exact ((looksAs.refl s).hand _ _).coherent hs
    · exact hs

theorem looksAs.applyPersistence {s y : State} (h : s.looksAs y) (x : Record) : s.looksAs (y.applyPersistence x) := by
  unfold State.applyPersistence
  split
  · exact h.modRecord _ _
  · exact h.dropRecords _

theorem fire_coherent {s : State} (hs : s.targetsCoherent) (r : RefReport) (x : Record) : (s.fire r x).targetsCoherent :=
  ((looksAs.refl _).applyPersistence x).coherent
    (applyAction_coherent ((((looksAs.refl s).modRecord _ _).queueNotice _ _).coherent hs) x)

theorem takeRecord_coherent {s : State} (hs : s.targetsCoherent) (r : RefReport) (k : Handle) : (s.takeRecord r k).targetsCoherent := by
  unfold takeRecord
  split
  · exact hs
  · split
    · exact fire_coherent hs r _
    · exact ((looksAs.refl s).modRecord _ _).coherent hs

theorem takeRef_coherent {s : State} (hs : s.targetsCoherent) (t : Index) (r : RefReport) : (s.takeRef t r).targetsCoherent := by
  have hall (ks : List Handle) : ∀ y : State, y.targetsCoherent → (ks.foldl (takeRecord r) y).targetsCoherent := by
    induction ks with
    | nil => exact fun _ hy => hy
    | cons k ks ih => exact fun _ hy => ih _ (takeRecord_coherent hy r k)
  unfold takeRef
  split
  · exact ((looksAs.refl _).watchSince s t).coherent (hall _ s hs)
  · exact hs

theorem takeRefMsg_coherent {s : State} (hs : s.targetsCoherent) (t : Index) (kind : Byte) (a : Addr) (d : Option Word) :
    (s.takeRefMsg t kind a d).targetsCoherent := by
  unfold takeRefMsg
  split
  · split
    · exact takeRef_coherent hs t _
    · exact hs
  · exact hs

/-! ### Slots and a hub reset -/

theorem looksAs.slotBegins {s x : State} (h : s.looksAs x) (t : Index) : s.looksAs (x.slotBegins t) := by
  unfold State.slotBegins
  split
  · refine h.modPort t _ fun y => ?_
    split <;> rfl
  · exact h

/-- The look of a target right after a hub reset. -/
def freshLook (present : Bool) : Look := (Target.reset present).look

/-- The targets in `ts` are as a hub reset leaves them, and every other one is coherent. -/
def fresh (s : State) (ts : List Index) : Prop :=
  ∀ t, (t ∉ ts → (s.target t).look.Fits) ∧ (t ∈ ts → (s.target t).look = freshLook (s.port t).present)

theorem freshLook_fits : (freshLook false).Fits := by
  refine ⟨⟨⟨?_, ?_, ?_, ?_, ?_, ?_, ?_, ?_, ?_, ?_, ?_, ?_, ?_, ?_, ?_⟩, ?_, ?_⟩, ?_⟩
  case refine_8 => rfl
  all_goals simp [freshLook, Target.reset, Target.look, RunControl.reset, AccessEngine.reset, Port.reset, PortConfig.reset, Look.relFits,
    Look.batchFits, Look.serves, Look.inFlight]

theorem freshLook_attached : ({ freshLook true with out := some .probe, link := .probing } : Look).Fits := by
  refine ⟨⟨⟨?_, ?_, ?_, ?_, ?_, ?_, ?_, ?_, ?_, ?_, ?_, ?_, ?_, ?_, ?_⟩, ?_, ?_⟩, ?_⟩
  case refine_8 => rfl
  all_goals simp [freshLook, Target.reset, Target.look, RunControl.reset, AccessEngine.reset, Port.reset, PortConfig.reset, Look.relFits,
    Look.batchFits, Look.serves, Look.inFlight]

theorem attachAll_coherent (ts : List Index) (hnodup : ts.Nodup) : ∀ {s : State}, s.fresh ts →
    (ts.foldl attachIfPresent s).targetsCoherent := by
  induction ts with
  | nil => exact fun h => targetsCoherent_iff.2 fun t => (h t).1 List.not_mem_nil
  | cons t ts ih =>
    intro s h
    obtain ⟨hnot, hnodup'⟩ := List.nodup_cons.1 hnodup
    have hhere := (h t).2 List.mem_cons_self
    obtain ⟨l, hmoves, hl⟩ : ∃ l, s.Moves t (s.attachIfPresent t) l ∧ l.Fits := by
      unfold attachIfPresent
      split
      · rename_i hp
        rw [hp] at hhere
        refine ⟨_, (Moves.refl s t).attach, ?_⟩
        rw [hhere]
        exact freshLook_attached
      · rename_i hp
        have hp' : (s.port t).present = false := by simpa using hp
        rw [hp'] at hhere
        exact ⟨_, Moves.refl s t, hhere ▸ freshLook_fits⟩
    refine ih hnodup' fun u => ?_
    by_cases hu : u = t
    · subst hu
      exact ⟨fun _ => hmoves.here ▸ hl, fun hmem => absurd hmem hnot⟩
    · have hsame := hmoves.others u hu
      have hpresent : ((s.attachIfPresent t).port u).present = (s.port u).present := congrArg Look.present hsame
      rw [hsame, hpresent]
      exact ⟨fun hmem => (h u).1 (by simp [hu, hmem]), fun hmem => (h u).2 (List.mem_cons_of_mem _ hmem)⟩

theorem resetHub_coherent (straps : Quad Straps) (s : State) : (s.resetHub straps).targetsCoherent := by
  refine attachAll_coherent indices (by decide) fun t => ⟨fun h => absurd (by revert t; decide) h, fun _ => ?_⟩
  simp [afterReset, target, port, freshLook, Target.reset, Port.reset]

end State

end Sys2Proof.Machine
end

section
/-! PROOF. A request's owner, the way to it, and every command leave every target coherent. -/

namespace Sys2Proof.Machine.State

namespace looksAs

variable {s x : State} (h : s.looksAs x)

include h

theorem modLink (l : Index) (f : LinkUnit → LinkUnit) : s.looksAs (x.modLink l f) := h.trans fun _ => rfl

theorem modNotice (n : Index) (f : NoticeQueue → NoticeQueue) : s.looksAs (x.modNotice n f) := h.trans fun _ => rfl

theorem modSession (n : Index) (f : Session → Session) : s.looksAs (x.modSession n f) := h.trans fun _ => rfl

theorem arbitrate (l : Index) : s.looksAs (x.arbitrate l) := h.of_mute (mute_arbitrate x l)

/-! ### Requests that change no look -/

theorem takeOpen (l : Index) (tag role lease : Byte) : s.looksAs (x.takeOpen l tag role lease) := by
  unfold State.takeOpen
  split
  · exact h.respondNow l _
  · split
    · exact h.respondPlain l tag _ _
    · refine .choice (h.respondPlain l tag _ _) (.choice (h.respondPlain l tag _ _) ?_)
      split
      · exact h.respondNow l _
      · exact ((h.modSession l _).modNotice l _).respondNow l _

theorem takePing (l : Index) (tag : Byte) : s.looksAs (x.takePing l tag) := by
  unfold State.takePing
  split
  · exact h
  · exact h.respondNow l _

theorem takeLock (n : Index) (tag : Byte) (t : Index) : s.looksAs (x.takeLock n tag t) := by
  unfold State.takeLock
  refine .choice (h.respondPlain n tag _ _) ?_
  split
  · exact .choice (h.respondNow n _) (h.respondNow n _)
  · exact ((h.markSeq t (fun q => if q.session = n then q else { q with interrupted := true }) _ (fun q => by split <;> rfl)
      fun _ => rfl).notifyState t).respondNow n _

theorem takeUnlock (n : Index) (tag : Byte) (t : Index) : s.looksAs (x.takeUnlock n tag t) :=
  .choice (h.respondPlain n tag _ _) (.choice (h.respondPlain n tag _ _) ((h.dropLock t).respondPlain n tag _ _))

theorem takeSetbrk (n : Index) (tag : Byte) (t : Index) (mode : Byte) (a m : Addr) (p : Half) (cond : Option DataCond) :
    s.looksAs (x.takeSetbrk n tag t mode a m p cond) := by
  unfold State.takeSetbrk
  split
  · exact h.respondPlain n tag _ _
  · exact ((h.bindRecord _).watchSince x t).respondNow n _

theorem takeClrbrk (n : Index) (tag handle : Byte) : s.looksAs (x.takeClrbrk n tag handle) := by
  unfold State.takeClrbrk
  split
  · exact h.respondPlain n tag _ _
  · split
    · exact h.respondPlain n tag _ _
    · have h1 (k : Handle) (t : Index) : s.looksAs ((x.dropRecord k).watchSince x t) := (h.dropRecords _).watchSince x t
      exact .choice (h.respondPlain n tag _ _) ((choice (h1 _ _) ((h1 _ _).queueNotice _ _)).respondNow n _)

theorem takeQbrk (n : Index) (tag handle part : Byte) : s.looksAs (x.takeQbrk n tag handle part) := by
  unfold State.takeQbrk
  split
  · exact h.respondPlain n tag _ _
  · refine .choice (h.respondPlain n tag _ _) ?_
    split
    · exact h.respondPlain n tag _ _
    · exact h.respondNow n _

theorem takeAck (l : Index) (tag seq : Byte) : s.looksAs (x.takeAck l tag seq) := by
  unfold State.takeAck
  split
  · exact h.respondPlain l tag _ _
  · exact (h.modNotice l _).respondNow l _

theorem takeReplay (l : Index) (tag : Byte) : s.looksAs (x.takeReplay l tag) := ((h.modNotice l _).arbitrate l).respondNow l _

theorem takeWatch (l : Index) (tag mask : Byte) : s.looksAs (x.takeWatch l tag mask) := by
  have hall (ts : List Index) : ∀ y : State, s.looksAs y → s.looksAs (ts.foldl (fun s' t => s'.queueNotice l (s'.stateBody t)) y) := by
    induction ts with
    | nil => exact fun _ hy => hy
    | cons t ts ih => exact fun _ hy => ih _ (hy.queueNotice l _)
  exact .choice (h.respondPlain l tag _ _) ((hall _ _ (h.modSession l _)).respondNow l _)

end looksAs

/-! ### A request at its owner, and on its way there -/

theorem ownerTake_coherent {s : State} (hs : s.targetsCoherent) (l : Index) (tag : Byte) (q : Request) (cond : Option DataCond) :
    (s.ownerTake l tag q cond).targetsCoherent := by
  have h := looksAs.refl s
  have hat (b : Byte) (f : Index → State → State) (hf : ∀ t, (f t s).targetsCoherent) : (s.atTarget b f).targetsCoherent :=
    atTarget_of b f hs hf
  cases q with
  | openSession role lease => exact (h.takeOpen l tag role lease).coherent hs
  | close => exact endSession_coherent ((h.respondNow l _).coherent hs) l .close
  | ping => exact (h.takePing l tag).coherent hs
  | halt b e => exact hat b _ fun t => takeHalt_coherent hs l tag t e
  | resume b e => exact hat b _ fun t => takeResume_coherent hs l tag t e
  | step b count => exact hat b _ fun t => takeStep_coherent hs l tag t count
  | status b => exact hat b _ fun t => (h.respondNow l _).coherent hs
  | lock b => exact hat b _ fun t => (h.takeLock l tag t).coherent hs
  | unlock b => exact hat b _ fun t => (h.takeUnlock l tag t).coherent hs
  | frel b => exact hat b _ fun t => takeFrel_coherent hs l tag t
  | setbrk b mode a m p => exact hat b _ fun t => (h.takeSetbrk l tag t mode a m p cond).coherent hs
  | setbrkData v m => exact hs
  | clrbrk k => exact (h.takeClrbrk l tag k).coherent hs
  | qbrk k part => exact (h.takeQbrk l tag k part).coherent hs
  | read b space loc => exact hat b _ fun t => takeRead_coherent hs l tag t space loc
  | write b space loc d => exact hat b _ fun t => takeWrite_coherent hs l tag t space loc d
  | ack seq => exact (h.takeAck l tag seq).coherent hs
  | replay => exact (h.takeReplay l tag).coherent hs
  | watch mask => exact (h.takeWatch l tag mask).coherent hs
  | configRead b item => exact hat b _ fun t => (looksAs.choice (h.respondPlain l tag _ _) (h.respondNow l _)).coherent hs
  | configSet b item value => exact hat b _ fun t => takeConfigSet_coherent hs l tag t item value
  | treset b => exact hat b _ fun t => takeTreset_coherent hs l tag t

theorem takeRouted_coherent {s : State} (hs : s.targetsCoherent) (l : Index) : (s.takeRouted l).targetsCoherent := by
  unfold takeRouted
  split
  · exact hs
  · simp only
    split
    · exact hs
    · exact ownerTake_coherent (s := s.modLink l _) hs l _ _ _

theorem deliver_coherent {s : State} (hs : s.targetsCoherent) (l : Index) (tag : Byte) (q : Request) (cond : Option DataCond) :
    (s.deliver l tag q cond).targetsCoherent := by
  unfold deliver
  simp only
  split
  · exact takeRouted_coherent (s := s.modLink l _) hs l
  · split
    · exact hs
    · refine takeRouted_coherent ?_ l
      exact hs

theorem handOver_coherent {s : State} (hs : s.targetsCoherent) (l : Index) (tag : Byte) (q : Request) (cond : Option DataCond) :
    (s.handOver l tag q cond).targetsCoherent := by
  unfold handOver
  split
  · exact ((looksAs.refl s).respondPlain l tag _ _).coherent hs
  · exact deliver_coherent hs l tag q cond

theorem route_coherent {s : State} (hs : s.targetsCoherent) (l : Index) (tag : Byte) (q : Request) :
    (s.route l tag q).targetsCoherent := by
  have hdata (d : Option DataCond) := (looksAs.refl s).modLink l fun u => { u with pendingData := d }
  cases q with
  | setbrkData v m => exact ((hdata _).respondPlain l tag _ _).coherent hs
  | setbrk b mode a m p =>
    have hgo (cond : Option DataCond) := handOver_coherent ((hdata none).coherent hs) l tag (.setbrk b mode a m p) cond
    unfold route
    simp only
    split
    · split
      · exact hgo _
      · exact ((hdata none).respondPlain l tag _ _).coherent hs
    · exact hgo _
  | _ => exact handOver_coherent hs l tag _ none

theorem checkRequest_coherent {s : State} (hs : s.targetsCoherent) (l : Index) (tag kind toh : Byte) (ops : List Byte) :
    (s.checkRequest l tag kind toh ops).targetsCoherent := by
  have h (st : Status) := ((looksAs.refl s).respondPlain l tag kind st).coherent hs
  unfold checkRequest
  split
  · exact h _
  split
  · exact h _
  split
  · exact h _
  split
  · exact h _
  split
  · exact h _
  · exact route_coherent hs l tag _

theorem looksAs.discardFrame {s x : State} (h : s.looksAs x) (l : Index) : s.looksAs (x.discardFrame l) := (h.modLink l _).queueNotice l _

theorem endFrame_coherent {s : State} (hs : s.targetsCoherent) (l : Index) (n : Byte) (body : List Byte) (check : Byte) :
    (s.endFrame l n body check).targetsCoherent := by
  have h1 := takeRouted_coherent (s := s.modLink l fun u => { u with rx := .idle, gapTimer := none }) hs l
  unfold endFrame
  simp only
  split
  · unfold goodFrame
    split
    · exact checkRequest_coherent ((((looksAs.refl _).modLink l _).modSession l _).coherent h1) l _ _ _ _
    · exact h1
  · exact ((looksAs.refl _).discardFrame l).coherent h1

theorem receiveByte_coherent {s : State} (hs : s.targetsCoherent) (l : Index) (b : Byte) : (s.receiveByte l b).targetsCoherent := by
  have h := looksAs.refl s
  have hrx (f : LinkUnit → LinkUnit) := (h.modLink l f).coherent hs
  have hbad := (h.discardFrame l).coherent hs
  unfold receiveByte
  split
  · split
    · exact hrx _
    · exact hs
  · unfold gatherByte
    split
    · split
      · exact hbad
      · exact hrx _
    · split
      · exact endFrame_coherent hs l _ _ _
      · exact hrx _
  · exact hrx _

/-! ### Every command -/

theorem arrives_coherent {s : State} (hs : s.targetsCoherent) (m : Option InMsg) {f : State → State} (hf : (f s).targetsCoherent) :
    (s.arrives m f).targetsCoherent := by
  unfold arrives
  split
  · split
    · exact hf
    · exact hs
  · exact hs

theorem frameEnds_coherent {s : State} (hs : s.targetsCoherent) (l : Index) : (s.frameEnds l).targetsCoherent := by
  have h (f : LinkUnit → LinkUnit) := (((looksAs.refl s).modLink l f).arbitrate l).coherent hs
  unfold frameEnds
  split
  · exact hs
  · exact h _
  · exact h _

theorem exec_coherent {c : Instr} {s s' : State} (hs : s.targetsCoherent) (h : exec c s = .next s') : s'.targetsCoherent := by
  have hlooks := looksAs.refl s
  have hdone {y : State} (hy : y.targetsCoherent) (heq : Host.Outcome.next y = (.next s' : Host.Outcome State Fault Refusal)) :
      s'.targetsCoherent := by
    cases heq
    exact hy
  have hif {y z : State} {p : Prop} [Decidable p] (hy : y.targetsCoherent) (hz : z.targetsCoherent) :
      (if p then y else z).targetsCoherent := by
    split
    · exact hy
    · exact hz
  cases c with
  | receivedByte l b => exact hdone (receiveByte_coherent hs l b) h
  | interByteGapExpiry l => exact hdone (hif ((hlooks.discardFrame l).coherent hs) hs) h
  | huntIdleExpiry l => exact hdone (hif ((hlooks.modLink l _).coherent hs) hs) h
  | linkBreak l => exact hdone (endSession_coherent (s := s.modLink l _) hs l .linkBreak) h
  | frameSent l => exact hdone (frameEnds_coherent hs l) h
  | leaseExpiry l => exact hdone (hif (endSession_coherent hs l .lease) hs) h
  | hubReset straps => exact hdone (resetHub_coherent straps s) h
  | presentRise t => exact hdone (presentRises_coherent hs t) h
  | presentFall t => exact hdone (presentFalls_coherent hs t) h
  | haltedReport t flags pc check => exact hdone (arrives_coherent hs _ (takeHalted_coherent hs t flags pc)) h
  | runningReport t check => exact hdone (arrives_coherent hs _ (takeRunning_coherent hs t)) h
  | svcGrant t check => exact hdone (arrives_coherent hs _ (takeGrant_coherent hs t)) h
  | accReply t number result data check => exact hdone (arrives_coherent hs _ (takeReply_coherent hs t number result data)) h
  | ref t kind address data check => exact hdone (arrives_coherent hs _ (takeRefMsg_coherent hs t kind address data)) h
  | stopTimerExpiry t => exact hdone (takeStopTimeout_coherent hs t) h
  | runTimerExpiry t => exact hdone (takeRunTimeout_coherent hs t) h
  | grantTimerExpiry t => exact hdone (takeGrantTimeout_coherent hs t) h
  | exchangeTimerExpiry t => exact hdone (takeExchangeTimeout_coherent hs t) h
  | resetHoldExpiry t => exact hdone (takeResetHold_coherent hs t) h
  | slotBegin t => exact hdone ((hlooks.slotBegins t).coherent hs) h
  | _ => exact hdone (receiveBytes_of (P := targetsCoherent) _ (fun _ b hx => receiveByte_coherent hx _ b) _ hs) h

end Sys2Proof.Machine.State

namespace Sys2Proof

open Machine

/-- Settles O58: each operation leaves its target's look sound, and an examination or a release completes it. -/
theorem stepKeepsTargetsCoherent : Obligations.StepKeepsTargetsCoherent := by
  unfold Obligations.StepKeepsTargetsCoherent
  exact fun s s' hk hs => step_keeps (P := State.targetsCoherent) (fun _ _ h => h) (fun _ _ _ h he => State.exec_coherent h he)
    (fun l _ h => State.takeRouted_coherent h l) hk hs

end Sys2Proof
end

section
/-! PROOF. Every step keeps the windows: what a request on its way has been checked for still holds when its owner takes it. -/

namespace Sys2Proof.Machine

/-- A chain of tests that each give a request of the kind tested for. -/
theorem Request.kind_of_test {kind k : Byte} {p : Prop} [Decidable p] {q r : Request} {rest : Option Request}
    (h : (if kind = k ∧ p then some r else rest) = some q) (hr : r.kind = k) (hrest : rest = some q → q.kind = kind) : q.kind = kind := by
  split at h
  · rename_i hk
    cases h
    exact hr.trans hk.1.symm
  · exact hrest h

theorem Request.kind_of_plain {kind k : Byte} {q r : Request} {rest : Option Request}
    (h : (if kind = k then some r else rest) = some q) (hr : r.kind = k) (hrest : rest = some q → q.kind = kind) : q.kind = kind := by
  split at h
  · rename_i hk
    cases h
    exact hr.trans hk.symm
  · exact hrest h

/-- A request keeps the kind it was checked by. -/
theorem Request.kind_of_parse {kind toh : Byte} {ops : List Byte} {q : Request} (h : Request.parse kind toh ops = some q) :
    q.kind = kind := by
  have hno : (none : Option Request) = some q → q.kind = kind := fun h => absurd h (by simp)
  unfold Request.parse at h
  refine kind_of_plain h rfl fun h => kind_of_plain h rfl fun h => ?_
  split at h
  · exact kind_of_plain h rfl fun h => kind_of_plain h rfl fun h => kind_of_plain h rfl fun h => kind_of_plain h rfl fun h =>
      kind_of_plain h rfl fun h => kind_of_plain h rfl fun h => kind_of_plain h rfl fun h => kind_of_plain h rfl fun h =>
      kind_of_plain h rfl hno
  · exact kind_of_plain h rfl fun h => kind_of_plain h rfl fun h => kind_of_plain h rfl fun h => kind_of_plain h rfl fun h =>
      kind_of_plain h rfl hno
  · exact kind_of_plain h rfl fun h => kind_of_plain h rfl hno
  · exact kind_of_plain h rfl hno
  · exact kind_of_plain h rfl hno
  · exact kind_of_test h rfl hno
  · exact kind_of_test h rfl hno
  · exact hno h

namespace State

/-- A request on Sl has passed the checks of R158 that name its session. -/
structure Passed (s : State) (l : Index) (tag : Byte) (q : Request) : Prop where
  opens : s.isOpen l = false → q.kind = 0x01
  fresh : s.isOpen l = true → tag ∉ s.tags l
  room : s.isOpen l = true → q.kind ∈ Request.deferredKinds → s.windowOpen l = true

theorem Passed.admits {s : State} {l : Index} {tag : Byte} {q : Request} (h : s.Passed l tag q) (hopen : s.isOpen l = true)
    (hidle : (s.link l).routed = none) (hroom : s.windowOpen l = true) : s.Admits l tag := ⟨hopen, hidle, h.fresh hopen, hroom⟩

theorem Orderly.passed {s s' : State} (h : s.Orderly s') (hw : s.windowKept) {l : Index} {tag : Byte} {q : Request}
    (hq : s.Passed l tag q) : s'.Passed l tag q where
  opens ho := hq.opens ((h.isOpen l).symm.trans ho)
  fresh ho hin := hq.fresh ((h.isOpen l).symm.trans ho) (h.fewer l hin)
  room ho hk := h.spare l [] (windowKept_iff.1 hw l) (hq.room ((h.isOpen l).symm.trans ho) hk)

/-- The windows do not depend on a link's other fields; a request set to wait there has to have passed. -/
theorem windowKept_modLink {s : State} (hw : s.windowKept) {l : Index} {f : LinkUnit → LinkUnit}
    (hresp : (f (s.link l)).respQ = (s.link l).respQ)
    (hr : ∀ r ∈ (f (s.link l)).routed, (r.inSession = false → r.request.kind = 0x01) ∧
      (s.isOpen l → ¬ r.tag ∈ s.tags l ∧ (r.request.kind ∈ Request.deferredKinds → s.windowOpen l))) :
    (s.modLink l f).windowKept := by
  have hwo (n : Index) : (s.modLink l f).windowOpen n = s.windowOpen n := by
    rw [Bool.eq_iff_iff, windowOpen_iff, windowOpen_iff]
    by_cases hn : n = l
    · subst hn; rw [modLink_link_self, hresp]; rfl
    · rw [modLink_link_of_ne _ _ hn]; rfl
  intro n
  obtain ⟨hperm, hnodup, h4, h8, hrouted⟩ := hw n
  refine ⟨hperm, hnodup, h4, ?_, ?_⟩
  · by_cases hn : n = l
    · subst hn; rw [modLink_link_self, hresp]; exact h8
    · rw [modLink_link_of_ne _ _ hn]; exact h8
  · rw [hwo]
    by_cases hn : n = l
    · subst hn; rw [modLink_link_self]; exact hr
    · rw [modLink_link_of_ne _ _ hn]; exact hrouted

theorem windowKept_takeTreset {s : State} {n : Index} {tag : Byte} (hw : s.windowKept) (ha : s.Admits n tag) (t : Index) :
    (s.takeTreset n tag t).windowKept := by
  have hplain (st : Status) := ((Orderly.refl s).respondPlain n tag 0x51 st).windowKept hw
  unfold takeTreset
  split
  · exact hplain _
  split
  · exact hplain _
  · exact windowKept_beginReset (lacking_joinWindow hw ha) t

theorem windowKept_takeRead {s : State} {n : Index} {tag : Byte} (hw : s.windowKept) (ha : s.Admits n tag) (t : Index) (space : Byte)
    (loc : Addr) : (s.takeRead n tag t space loc).windowKept := by
  unfold takeRead
  split
  · exact ((Orderly.refl s).respondPlain n tag _ _).windowKept hw
  · exact windowKept_addAccess hw ha t _ _ loc

theorem windowKept_takeWrite {s : State} {n : Index} {tag : Byte} (hw : s.windowKept) (ha : s.Admits n tag) (t : Index) (space : Byte)
    (loc : Addr) (d : Word) : (s.takeWrite n tag t space loc d).windowKept := by
  unfold takeWrite
  split
  · exact ((Orderly.refl s).respondPlain n tag _ _).windowKept hw
  · exact windowKept_addAccess hw ha t _ _ loc

/-- An open session's request at its owner. -/
theorem ownerTake_windowKept_of_open {s : State} (hw : s.windowKept) (hc : s.targetsCoherent) {l : Index} {tag : Byte} {q : Request}
    (hopen : s.isOpen l = true) (hidle : (s.link l).routed = none) (hq : s.Passed l tag q) (cond : Option DataCond) :
    (s.ownerTake l tag q cond).windowKept := by
  have h := Orderly.refl s
  have hat (b : Byte) (f : Index → State → State) (hf : ∀ t, (f t s).windowKept) : (s.atTarget b f).windowKept := atTarget_of b f hw hf
  have hadmits (hk : q.kind ∈ Request.deferredKinds) : s.Admits l tag := hq.admits hopen hidle (hq.room hopen hk)
  have hself (hroom : s.windowOpen l = true) : s.Admits l tag := hq.admits hopen hidle hroom
  cases q with
  | openSession role lease => exact windowKept_takeOpen hw hidle tag role lease
  | close => exact windowKept_endSession ((h.respondNow l _).windowKept hw) l .close
  | ping => exact (h.takePing l tag).windowKept hw
  | halt b e => exact hat b _ fun t => windowKept_takeHalt hw hself t e
  | resume b e => exact hat b _ fun t => windowKept_takeResume hw hself t e
  | step b count =>
    refine hat b _ fun t => windowKept_takeStep hw (hadmits (by simp [Request.kind, Request.deferredKinds])) (fun hr => ?_) count
    have hseq := (fits_of_coherent hc t).toSound.seq_none (by rw [show (s.target t).look.run = .halted from hr]; simp)
    simpa [Target.look, rc] using hseq
  | status b => exact hat b _ fun t => (h.takeStatus l t tag).windowKept hw
  | lock b => exact hat b _ fun t => (h.takeLock l t tag).windowKept hw
  | unlock b => exact hat b _ fun t => (h.takeUnlock l t tag).windowKept hw
  | frel b => exact hat b _ fun t => (h.takeFrel l t tag).windowKept hw
  | setbrk b mode a m p => exact hat b _ fun t => (h.takeSetbrk l t tag mode a m p cond).windowKept hw
  | setbrkData v m => exact hw
  | clrbrk k => exact (h.takeClrbrk l tag k).windowKept hw
  | qbrk k part => exact (h.takeQbrk l tag k part).windowKept hw
  | read b space loc => exact hat b _ fun t => windowKept_takeRead hw (hadmits (by simp [Request.kind, Request.deferredKinds])) t space loc
  | write b space loc d => exact hat b _ fun t => windowKept_takeWrite hw (hadmits (by simp [Request.kind, Request.deferredKinds])) t space loc d
  | ack seq => exact (h.takeAck l tag seq).windowKept hw
  | replay => exact (h.takeReplay l tag).windowKept hw
  | watch mask => exact (h.takeWatch l tag mask).windowKept hw
  | configRead b item => exact hat b _ fun t => (h.takeConfigRead l t tag item).windowKept hw
  | configSet b item value => exact hat b _ fun t => (h.takeConfigSet l t tag item value).windowKept hw
  | treset b => exact hat b _ fun t => windowKept_takeTreset hw (hadmits (by simp [Request.kind, Request.deferredKinds])) t

theorem ownerTake_windowKept {s : State} (hw : s.windowKept) (hc : s.targetsCoherent) {l : Index} {tag : Byte} {q : Request}
    (hidle : (s.link l).routed = none) (hq : s.Passed l tag q) (cond : Option DataCond) : (s.ownerTake l tag q cond).windowKept := by
  cases hopen : s.isOpen l with
  | true => exact ownerTake_windowKept_of_open hw hc hopen hidle hq cond
  | false =>
    have hk := hq.opens hopen
    cases q with
    | openSession role lease => exact windowKept_takeOpen hw hidle tag role lease
    | _ => exact absurd hk (by simp [Request.kind])

theorem takeRouted_windowKept {s : State} (hw : s.windowKept) (hc : s.targetsCoherent) (l : Index) : (s.takeRouted l).windowKept := by
  unfold takeRouted
  split
  · exact hw
  · rename_i r hr
    have hclear : (s.modLink l fun u => { u with routed := none }).windowKept := windowKept_modLink hw rfl (by simp)
    obtain ⟨hopens, hfresh⟩ := (hw l).2.2.2.2 r (by simp [hr])
    simp only
    split
    · exact hclear
    · rename_i hlive
      have hwo : (s.modLink l fun u => { u with routed := none }).windowOpen l = s.windowOpen l := by
        rw [Bool.eq_iff_iff, windowOpen_iff, windowOpen_iff, modLink_link_self]
        rfl
      refine ownerTake_windowKept hclear hc (by simp) ⟨fun ho => hopens ?_, fun ho => (hfresh ho).1, fun ho hk => ?_⟩ r.cond
      · have ho' : s.isOpen l = false := ho
        simpa [ho'] using hlive
      · rw [hwo]
        exact (hfresh ho).2 hk

theorem deliver_windowKept {s : State} (hw : s.windowKept) (hc : s.targetsCoherent) {l : Index} {tag : Byte} {q : Request}
    (hq : s.Passed l tag q) (cond : Option DataCond) : (s.deliver l tag q cond).windowKept := by
  have h1 : (s.modLink l fun u => { u with routed := some { tag, request := q, cond, inSession := s.isOpen l } }).windowKept := by
    refine windowKept_modLink hw rfl fun r hr => ?_
    obtain rfl : _ = r := by simpa using hr
    exact ⟨hq.opens, fun ho => ⟨hq.fresh ho, hq.room ho⟩⟩
  unfold deliver
  simp only
  split
  · exact takeRouted_windowKept h1 hc l
  · split
    · exact h1
    · refine takeRouted_windowKept ?_ ?_ l
      · exact h1
      · exact hc

theorem handOver_windowKept {s : State} (hw : s.windowKept) (hc : s.targetsCoherent) {l : Index} {tag : Byte} {q : Request}
    (hq : s.Passed l tag q) (cond : Option DataCond) : (s.handOver l tag q cond).windowKept := by
  unfold handOver
  split
  · exact ((Orderly.refl s).respondPlain l tag _ _).windowKept hw
  · exact deliver_windowKept hw hc hq cond

theorem route_windowKept {s : State} (hw : s.windowKept) (hc : s.targetsCoherent) {l : Index} {tag : Byte} {q : Request}
    (hq : s.Passed l tag q) : (s.route l tag q).windowKept := by
  have hdata (d : Option DataCond) := (Orderly.refl s).modLink l (fun u => { u with pendingData := d }) rfl rfl
  cases q with
  | setbrkData v m => exact ((hdata _).respondPlain l tag _ _).windowKept hw
  | setbrk b mode a m p =>
    have hgo (cond : Option DataCond) := handOver_windowKept ((hdata none).windowKept hw) hc ((hdata none).passed hw hq) cond
    unfold route
    simp only
    split
    · split
      · exact hgo _
      · exact ((hdata none).respondPlain l tag _ _).windowKept hw
    · exact hgo _
  | _ => exact handOver_windowKept hw hc hq none

theorem checkRequest_windowKept {s : State} (hw : s.windowKept) (hc : s.targetsCoherent) (l : Index) (tag kind toh : Byte)
    (ops : List Byte) : (s.checkRequest l tag kind toh ops).windowKept := by
  rcases s.checkRequest_cases l tag kind toh ops with h | ⟨q, hparse, hopens, hfresh, hroom, heq⟩
  · exact h.windowKept hw
  · have hk := Request.kind_of_parse hparse
    rw [heq]
    exact route_windowKept hw hc ⟨fun ho => hk ▸ hopens ho, fun _ => hfresh, fun _ hd => hroom (hk ▸ hd)⟩

theorem endFrame_windowKept {s : State} (hw : s.windowKept) (hc : s.targetsCoherent) (l : Index) (n : Byte) (body : List Byte)
    (check : Byte) : (s.endFrame l n body check).windowKept := by
  have h1 := ((Orderly.refl s).modLink l (fun u => { u with rx := .idle, gapTimer := none }) rfl rfl).windowKept hw
  have hw2 := takeRouted_windowKept h1 hc l
  have hc2 := takeRouted_coherent (s := s.modLink l fun u => { u with rx := .idle, gapTimer := none }) hc l
  unfold endFrame
  simp only
  split
  · unfold goodFrame
    split
    · exact checkRequest_windowKept (((Orderly.refl _).goodFrameBase l).windowKept hw2)
        ((((looksAs.refl _).modLink l _).modSession l _).coherent hc2) l _ _ _ _
    · exact hw2
  · exact ((Orderly.refl _).discardFrame l).windowKept hw2

/-- The windows are kept, and the targets are coherent. -/
def sound (s : State) : Prop := s.targetsCoherent ∧ s.windowKept

theorem receiveByte_sound {s : State} (h : s.sound) (l : Index) (b : Byte) : (s.receiveByte l b).sound := by
  obtain ⟨hc, hw⟩ := h
  refine ⟨receiveByte_coherent hc l b, ?_⟩
  rcases s.receiveByte_cases l b with ho | ⟨n, body, heq⟩
  · exact ho.windowKept hw
  · rw [heq]
    exact endFrame_windowKept hw hc l n body b

theorem resetHub_windowKept (straps : Quad Straps) (s : State) : (s.resetHub straps).windowKept := by
  refine (attachEach indices (Orderly.refl (s.afterReset straps))).windowKept (windowKept_iff.2 fun n => ?_)
  have hclosed : (s.afterReset straps).isOpen n = false := by simp [afterReset, State.isOpen, session, Session.reset]
  have hlink : (s.afterReset straps).link n = .reset (straps.get n) := by simp [afterReset, link]
  refine (windowOf_of_closed hclosed).2 ⟨owed_eq_nil.2 fun t => ?_, ?_, ?_⟩
  · have ht : (s.afterReset straps).target t = .reset (s.port t).present := by simp [afterReset, target, port]
    have hrc : (s.afterReset straps).rc t = .reset := congrArg Target.rc ht
    have hacc : (s.afterReset straps).acc t = .reset := congrArg Target.acc ht
    rw [hrc, hacc]
    exact ⟨rfl, rfl⟩
  · rw [hlink]
    simp [LinkUnit.reset]
  · rw [hlink]
    simp [LinkUnit.reset]

theorem exec_sound {c : Instr} {s s' : State} (h : s.sound) (he : exec c s = .next s') : s'.sound := by
  refine ⟨exec_coherent h.1 he, ?_⟩
  rcases exec_cases he with ⟨l, bs, rfl⟩ | ⟨l, rfl⟩ | ⟨l, rfl⟩ | ⟨straps, rfl⟩ | horderly
  · exact (receiveBytes_of (P := sound) l (fun x b hx => receiveByte_sound hx l b) bs h).2
  · exact windowKept_endSession (((Orderly.refl s).breakBase l).windowKept h.2) l .linkBreak
  · unfold leaseExpires
    split
    · exact windowKept_endSession h.2 l .lease
    · exact h.2
  · exact s.resetHub_windowKept straps
  · exact horderly.windowKept h.2

end State

end Sys2Proof.Machine

namespace Sys2Proof

open Machine

/-- Settles O60: a tag joins a window only together with the block's record that owes it, and leaves with its response. -/
theorem stepKeepsWindow : Obligations.StepKeepsWindow := by
  unfold Obligations.StepKeepsWindow
  exact fun s s' hc hw hs => (step_keeps (P := State.sound) (fun _ _ h => h) (fun _ _ _ h he => State.exec_sound h he)
    (fun l _ h => ⟨State.takeRouted_coherent h.1 l, State.takeRouted_windowKept h.2 h.1 l⟩) ⟨hc, hw⟩ hs).2

end Sys2Proof
end

section
/-! PROOF. The queue of commands and of routed requests, whole frames, the receiver and damaged frames (R124, R154 to R160), and the reset
state. -/

namespace Sys2Proof

open Machine

/-- Settles O1: `step` matches on the queue first. -/
theorem stepRunsFront : Obligations.StepRunsFront := by
  unfold Obligations.StepRunsFront
  intro c s rest h
  unfold step
  rw [h]

/-- Settles O41: the byte lists of Table 8-6 are read back field by field. -/
theorem requestFieldsRoundTrip : Obligations.RequestFieldsRoundTrip := by
  unfold Obligations.RequestFieldsRoundTrip
  exact Request.parse_fields

/-- Settles O42: the run of the receiver over the bytes of a frame. -/
theorem frameArrivesWhole : Obligations.FrameArrivesWhole := by
  unfold Obligations.FrameArrivesWhole
  exact fun s l tag q hrx hr => s.requestArrives_of_idle l tag q hrx hr

namespace Machine.State

variable (s : State) (l : Index)

/-! ### Routed requests (R124, R160) -/

/-- What the owner does with the request that waits on Ll. -/
theorem takeRouted_of_some {r : Routed} (hr : (s.link l).routed = some r) :
    s.takeRouted l = if r.inSession ∧ ¬ s.isOpen l then s.modLink l fun u => { u with routed := none }
      else (s.modLink l fun u => { u with routed := none }).ownerTake l r.tag r.request r.cond := by
  unfold takeRouted
  simp [hr]

theorem waitingLinks_eq_nil (h : ∀ m, (s.link m).routed = none) : s.waitingLinks = [] := by
  unfold waitingLinks
  simp [h]

/-- The lowest-numbered link on which a request waits is the first of those waiting. -/
theorem waitingLinks_eq_cons (h : (s.link l).routed.isSome) (hlow : ∀ m, m < l → (s.link m).routed = none) :
    ∃ rest, s.waitingLinks = l :: rest := by
  unfold waitingLinks indices
  fin_cases l
  · simp_all
  · have h0 := hlow 0 (by decide)
    simp_all
  · have h0 := hlow 0 (by decide)
    have h1 := hlow 1 (by decide)
    simp_all
  · have h0 := hlow 0 (by decide)
    have h1 := hlow 1 (by decide)
    have h2 := hlow 2 (by decide)
    simp_all

/-- Settles O2: an idle hub serves the lowest waiting link, and a completed frame serves its own link first. -/
theorem routedRequestTaken : Obligations.RoutedRequestTaken := by
  unfold Obligations.RoutedRequestTaken
  refine fun s l r n b body => ⟨fun hp hnone => ?_, fun hp hr hlow => ?_, fun hr hrx hlen => ?_⟩
  · unfold step
    rw [hp, s.waitingLinks_eq_nil hnone]
  · obtain ⟨rest, hrest⟩ := s.waitingLinks_eq_cons l (by simp [hr]) hlow
    unfold step
    rw [hp, hrest]
    exact congrArg Host.Outcome.next (s.takeRouted_of_some l hr)
  · have hidle : ((s.modLink l fun u => { u with rx := .idle, gapTimer := none }).modLink l fun u => { u with routed := none }) =
        (s.modLink l fun u => { u with routed := none }).modLink l fun u => { u with rx := .idle, gapTimer := none } := by
      simp only [modLink_modLink]
    have htaken := takeRouted_of_some (s.modLink l fun u => { u with rx := .idle, gapTimer := none }) l (by simpa using hr)
    rw [hidle] at htaken
    show Host.Outcome.next (s.receiveByte l b) = _
    rw [receive_check s l hrx hlen]
    unfold endFrame
    simp only [htaken]
    rfl

/-! ### The receiver (R154, R156) -/

/-- Settles O43: one byte, by the state of the receiver. -/
theorem receiverTakesByte : Obligations.ReceiverTakesByte := by
  unfold Obligations.ReceiverTakesByte
  refine ⟨fun s l b n body => ⟨fun hrx => ?_, fun hrx h3 h14 => ?_, fun hrx hlen => ?_, fun hrx => ?_⟩, fun s l => rfl⟩
  all_goals
    show Host.Outcome.next (s.receiveByte l b) = _
    unfold receiveByte
    rw [hrx]
  · rfl
  · have hin : ¬ (b.toNat < Config.minLength ∨ Config.maxLength < b.toNat) := by
      simp only [Config.minLength, Config.maxLength]
      omega
    simp only [gatherByte, if_neg hin]
    rfl
  · simp only [gatherByte, if_neg (Nat.ne_of_lt hlen)]
    rfl
  · rfl

/-! ### Damaged frames (R155) -/

/-- A link fault is heard by the session of the link, where one is open (R134). -/
theorem linkFault_heard : s.heard (s.linkFault l) l (if s.isOpen l then [.linkFault 1] else []) := by
  obtain ⟨-, -, hnotice, -⟩ := s.queueNotice_spec l (.linkFault 1)
  refine (hnotice l).trans ?_
  cases ho : s.isOpen l with
  | true => simp
  | false => simp

/-- A frame discarded on Ll: one more bad frame, and a link fault to its session. -/
theorem discardFrame_spec {s : State} {l : Index} (hbad : (s.link l).badFrames ≤ 2) :
    (s.discardFrame l).mute = (s.modLink l fun u =>
      if (s.link l).badFrames + 1 = 3 then { u with rx := .hunt, badFrames := 3, gapTimer := none, idleTimer := some 10 }
      else { u with rx := .idle, badFrames := (s.link l).badFrames + 1, gapTimer := none }).mute ∧
    s.othersSilent (s.discardFrame l) l ∧ ((s.discardFrame l).link l).respQ = (s.link l).respQ ∧
      s.heard (s.discardFrame l) l (if s.isOpen l then [.linkFault 1] else []) := by
  have hafter : afterDiscard (s.link l) =
      if (s.link l).badFrames + 1 = 3 then { s.link l with rx := .hunt, badFrames := 3, gapTimer := none, idleTimer := some 10 }
      else { s.link l with rx := .idle, badFrames := (s.link l).badFrames + 1, gapTimer := none } := by
    have hlimit : Config.badFrameLimit ≤ (s.link l).badFrames + 1 ↔ (s.link l).badFrames + 1 = 3 := by
      simp only [Config.badFrameLimit]
      omega
    unfold afterDiscard
    simp only [hlimit]
    rfl
  have hresp : (afterDiscard (s.link l)).respQ = (s.link l).respQ := by
    rw [hafter]
    split <;> rfl
  obtain ⟨hmute, hrespQ, hnotice, hothers⟩ := (s.modLink l afterDiscard).queueNotice_spec l (.linkFault 1)
  refine ⟨?_, fun n hn => ?_, ?_, ?_⟩
  · rw [discardFrame_mute]
    exact congrArg mute (modLink_congr s l hafter)
  · obtain ⟨hlink, hnotices⟩ := hothers n hn
    exact ⟨hlink.trans (modLink_link_of_ne s _ hn), hnotices⟩
  · exact (hrespQ l).trans (by rw [modLink_link_self, hresp])
  · exact (s.modLink l afterDiscard).linkFault_heard l

/-- Settles O44: each of the three faults is one `discardFrame`. -/
theorem damagedFrameDiscarded : Obligations.DamagedFrameDiscarded := by
  unfold Obligations.DamagedFrameDiscarded
  refine fun s l b n body hbad => ⟨fun hrx hb => ⟨s.discardFrame l, ?_, discardFrame_spec hbad⟩,
    fun hrx hlen hcrc hr => ⟨_, rfl, ?_⟩, fun hgap => ⟨s.discardFrame l, ?_, discardFrame_spec hbad⟩, fun hgap => ?_⟩
  · have hout : b.toNat < Config.minLength ∨ Config.maxLength < b.toNat := hb
    show Host.Outcome.next (s.receiveByte l b) = _
    unfold receiveByte
    rw [hrx]
    simp only [gatherByte, if_pos hout]
  · set idle := s.modLink l fun u => { u with rx := .idle, gapTimer := none } with hidle
    have hend : s.receiveByte l b = idle.discardFrame l := by
      have hrouted : (idle.link l).routed = none := by simpa [hidle] using hr
      have htaken : idle.takeRouted l = idle := by
        unfold takeRouted
        rw [hrouted]
      rw [receive_check s l hrx hlen]
      unfold endFrame
      simp only [← hidle, htaken, if_neg hcrc]
    have hbase := discardFrame_spec (s := idle) (l := l) (by simpa [hidle] using hbad)
    obtain ⟨hmute, hothers, hresp, hheard⟩ := hbase
    rw [hend]
    refine ⟨hmute.trans ?_, fun m hm => ?_, by simpa [hidle] using hresp, hheard⟩
    · rw [hidle, modLink_modLink]
      refine congrArg mute (modLink_congr s l ?_)
      simp only [modLink_link_self]
    · obtain ⟨hlink, hnotice⟩ := hothers m hm
      exact ⟨hlink.trans (modLink_link_of_ne s _ hm), hnotice⟩
  · show Host.Outcome.next (s.gapExpires l) = _
    unfold gapExpires
    rw [if_pos hgap]
  · show Host.Outcome.next (s.gapExpires l) = _
    unfold gapExpires
    rw [hgap]
    rfl

/-! ### The reset state -/

theorem windowKept_reset : State.reset.windowKept := by
  refine windowKept_iff.2 fun n => ?_
  have hclosed : State.reset.isOpen n = false := by simp [State.reset, State.isOpen, session, Session.reset]
  refine (windowOf_of_closed hclosed).2 ⟨owed_eq_nil.2 fun t => ?_, ?_, ?_⟩
  · have ht : State.reset.target t = .reset false := by simp [State.reset, target]
    have hrc : State.reset.rc t = .reset := congrArg Target.rc ht
    have hacc : State.reset.acc t = .reset := congrArg Target.acc ht
    rw [hrc, hacc]
    exact ⟨rfl, rfl⟩
  all_goals simp [State.reset, link, LinkUnit.reset]

/-- Settles O56: every queue, bank, window and record of the reset state is empty. -/
theorem invariantsHoldAtReset : Obligations.InvariantsHoldAtReset := by
  unfold Obligations.InvariantsHoldAtReset
  refine ⟨noticesKept_iff.2 fun n => ?_, targetsCoherent_iff.2 fun t => ?_, ⟨List.Pairwise.nil, fun x hx => absurd hx List.not_mem_nil,
    fun t c => ?_⟩, windowKept_reset⟩
  · have hempty : (State.reset.notice n).entries = [] := by simp [State.reset, notice, NoticeQueue.reset]
    exact ⟨NoticeQueue.kept_of_empty hempty, fun _ => hempty⟩
  · have ht : State.reset.target t = .reset false := by simp [State.reset, target]
    rw [ht]
    exact freshLook_fits
  · have hfree : (State.reset.bank t).get c = .free := by simp [State.reset, bank, target, Target.reset]
    rw [hfree]
    simp [Comparator.free, State.reset]

end Machine.State

end Sys2Proof
end

section
/-! PROOF. Target ports (chapter 9): the verification of messages, what the port sends, the watch after a report, and attach, with the
hub reset that attaches every target present (R26, R46, R170, R171, R174, R182). -/

namespace Sys2Proof

open Machine

/-! ### Messages of a target (R170) -/

/-- Bits 2 to 7 are zero. -/
theorem flags_lt_four (flags : Byte) : flags.toNat < 4 ↔ flags &&& 0xFC = 0 := by
  have hall : ∀ n : Fin 256, n.val < 4 ↔ BitVec.ofFin n &&& (0xFC : Byte) = 0 := by decide +kernel
  exact hall flags.toFin

theorem wellFormed_haltedReport (t : Index) (flags check : Byte) (pc : Addr) :
    (Instr.haltedReport t flags pc check).wellFormed ↔ flags &&& 0xFC = 0 ∧ check = crc8 (0x81 :: flags :: bytes24 pc) := by
  rw [← flags_lt_four]
  simp [Instr.wellFormed, Instr.inMsg?, InMsg.wellFormed, InMsg.fieldsDefined, InMsg.expected]

theorem wellFormed_runningReport (t : Index) (check : Byte) : (Instr.runningReport t check).wellFormed ↔ check = crc8 [0x82] := by
  simp [Instr.wellFormed, Instr.inMsg?, InMsg.wellFormed, InMsg.fieldsDefined, InMsg.expected]

theorem wellFormed_svcGrant (t : Index) (check : Byte) : (Instr.svcGrant t check).wellFormed ↔ check = crc8 [0x83] := by
  simp [Instr.wellFormed, Instr.inMsg?, InMsg.wellFormed, InMsg.fieldsDefined, InMsg.expected]

theorem wellFormed_accReply (t : Index) (number result check : Byte) (w : Word) : (Instr.accReply t number result w check).wellFormed ↔
    (result = 0 ∨ result = 1) ∧ check = crc8 (0x84 :: number :: result :: bytes32 w) := by
  have hresult : result.toNat < 2 ↔ result = 0 ∨ result = 1 := by
    constructor
    · intro h
      bv_omega
    · rintro (rfl | rfl) <;> decide
  rw [← hresult]
  simp [Instr.wellFormed, Instr.inMsg?, InMsg.wellFormed, InMsg.fieldsDefined, InMsg.expected]

theorem wellFormed_ref (t : Index) (kind check : Byte) (address : Addr) (data : Option Word) :
    (Instr.ref t kind address data check).wellFormed ↔ (kind = 0 ∧ data = none ∨ (kind = 1 ∨ kind = 2) ∧ data ≠ none) ∧
      check = crc8 (0x85 :: kind :: (bytes24 address ++ (data.map bytes32).getD [])) := by
  have hkind : kind ≠ 0 → (kind.toNat < 3 ↔ kind = 1 ∨ kind = 2) := by
    intro h0
    constructor
    · intro h
      bv_omega
    · rintro (rfl | rfl) <;> decide
  by_cases h0 : kind = 0
  · subst h0
    cases data <;> simp [Instr.wellFormed, Instr.inMsg?, InMsg.wellFormed, InMsg.fieldsDefined, InMsg.expected]
  · rw [← hkind h0]
    cases data with
    | none => simp [Instr.wellFormed, Instr.inMsg?, InMsg.wellFormed, InMsg.fieldsDefined, InMsg.expected]
    | some w =>
      simp [Instr.wellFormed, Instr.inMsg?, InMsg.wellFormed, InMsg.fieldsDefined, InMsg.expected]
      exact fun _ _ => h0

namespace Machine.State

/-- A message that fails R170 is discarded, and so is one that its taker leaves alone. -/
theorem arrives_discarded {s : State} {c : Instr} {f : State → State} (h : c.wellFormed = false ∨ f s = s) :
    s.arrives c.inMsg? f = s := by
  unfold arrives
  cases hm : c.inMsg? with
  | none => rfl
  | some m =>
    simp only
    by_cases hwf : m.wellFormed = true
    · have hc : c.wellFormed = true := by
        unfold Instr.wellFormed
        rw [hm]
        exact hwf
      rw [if_pos hwf]
      exact h.resolve_left (by simp [hc])
    · rw [if_neg hwf]

/-- Settles O48: the verification is a conjunction over the fields, and every taker begins with the link state. -/
theorem messageVerified : Obligations.MessageVerified := by
  unfold Obligations.MessageVerified
  refine ⟨fun t flags number result kind check pc address w data => ⟨wellFormed_haltedReport t flags check pc,
    wellFormed_runningReport t check, wellFormed_svcGrant t check, wellFormed_accReply t number result check w,
    wellFormed_ref t kind check address data⟩, fun s t flags number result kind check pc address w data => ⟨?_, ?_⟩,
    fun s t number result check data h => ?_⟩
  · intro c hc hdiscarded
    have hreport : c.wellFormed = false ∨ s.reportsArrive t = false := hdiscarded.imp_right fun hl => by
      unfold reportsArrive
      rcases hl with hl | hl <;> rw [hl]
    have hactive : c.wellFormed = false ∨ (s.port t).link ≠ .active := hdiscarded.imp_right fun hl => by
      rcases hl with hl | hl <;> simp [hl]
    simp only [List.mem_cons, List.not_mem_nil, or_false] at hc
    rcases hc with rfl | rfl | rfl | rfl | rfl
    · exact congrArg Host.Outcome.next (arrives_discarded (hreport.imp_right fun hn => by simp [takeHalted, hn]))
    · exact congrArg Host.Outcome.next (arrives_discarded (hreport.imp_right fun hn => by simp [takeRunning, hn]))
    · exact congrArg Host.Outcome.next (arrives_discarded (hactive.imp_right fun hn => by simp [takeGrant, hn]))
    · exact congrArg Host.Outcome.next (arrives_discarded (hactive.imp_right fun hn => by simp [takeReply, hn]))
    · exact congrArg Host.Outcome.next (arrives_discarded (hactive.imp_right fun hn => by simp [takeRefMsg, hn]))
  · intro c hc hprobing
    simp only [List.mem_cons, List.not_mem_nil, or_false] at hc
    rcases hc with rfl | rfl | rfl
    · exact congrArg Host.Outcome.next (arrives_discarded (.inr (by simp [takeGrant, hprobing])))
    · exact congrArg Host.Outcome.next (arrives_discarded (.inr (by simp [takeReply, hprobing])))
    · exact congrArg Host.Outcome.next (arrives_discarded (.inr (by simp [takeRefMsg, hprobing])))
  · refine congrArg Host.Outcome.next (arrives_discarded (.inr ?_))
    unfold takeReply
    rcases h with hlink | hnumber
    · rw [if_neg hlink]
    · split
      · split
        · rename_i x e rest hx hq
          rw [if_neg (hnumber x hx)]
        · rfl
      · rfl

/-! ### What the port sends (R171, R174) -/

variable (s : State) (t : Index)

/-- A change that leaves the port as it stands. -/
theorem modPort_fixed {f : Port → Port} (h : f (s.port t) = s.port t) : s.modPort t f = s := by
  refine (modPort_congr s t (g := fun p => p) h).trans ?_
  simp [modPort, modTarget]

theorem hand_attn (h : Handle) : s.hand t (.attn h) =
    if ((s.port t).sendList.filter fun x => match x with | .attn _ => true | _ => false).length < 8 then
      s.modPort t fun p => { p with sendList := p.sendList ++ [.attn h] } else s := by
  rw [← List.countP_eq_length_filter]
  split
  · rename_i hroom
    exact modPort_congr s t (if_pos hroom)
  · rename_i hfull
    exact modPort_fixed s t (if_neg hfull)

/-- Settles O49: a message joins the send list, a run-control message becomes outstanding, and a slot begins the oldest. -/
theorem portSends : Obligations.PortSends := by
  unfold Obligations.PortSends
  refine ⟨fun s t m c h => ⟨fun hm => s.hand_eq t hm, s.hand_attn t h, ?_⟩, fun s t m rest flag => ⟨fun hoff => ?_, fun hon =>
    ⟨fun hempty => ?_, fun hlist => ⟨s.slotBegins t, rfl, ?_⟩⟩⟩⟩
  · rw [handRc_eq]
    cases c <;> rfl
  · show Host.Outcome.next (s.slotBegins t) = _
    unfold slotBegins
    rw [hoff]
    rfl
  · show Host.Outcome.next (s.slotBegins t) = _
    unfold slotBegins
    rw [if_pos hon]
    exact congrArg Host.Outcome.next (modPort_congr s t (by simp only [hempty]))
  · have hbegun : s.slotBegins t = s.modPort t fun p =>
        { p with sendList := rest, slot := m.body ++ [crc8 m.body], resetAsserted := m.resetAfter (s.port t).resetAsserted } := by
      unfold slotBegins
      rw [if_pos hon]
      exact modPort_congr s t (by simp only [hlist]; rfl)
    have hasserted : ((s.slotBegins t).port t).resetAsserted = m.resetAfter (s.port t).resetAsserted := by
      rw [hbegun]
      simp
    beta_reduce
    rw [hasserted]
    refine ⟨hbegun, ?_, ?_, fun hoff hon' => ?_⟩
    · rintro rfl
      rfl
    · rintro rfl
      rfl
    · cases m with
      | rstOn => exact absurd rfl hon'
      | rstOff f => exact absurd rfl (hoff f)
      | _ => rfl

/-! ### The watch after a report (R46) -/

@[simp] theorem demand_modPort (f : Port → Port) (u : Index) : (s.modPort t f).demand u = s.demand u := demand_congr (by simp) u

theorem sendWatch_eq : s.sendWatch t = s.modPort t fun p =>
    { p with sendList := p.sendList ++ [.watch (s.demand t)], watchEnable := s.demand t } := by
  unfold sendWatch
  rw [hand_eq _ _ (by simp), modPort_modPort]

theorem rewatch_eq : s.rewatch t = if s.demand t then
      s.modPort t fun p => { p with sendList := p.sendList ++ [.watch true], watchEnable := true, watchOwed := false }
    else s.modPort t fun p => { p with watchOwed := false } := by
  unfold rewatch
  simp only [demand_modPort]
  split
  · rename_i hd
    rw [sendWatch_eq]
    simp [hd]
  · rfl

theorem watchAtActive_eq : s.watchAtActive t = if (s.port t).watchEnable = s.demand t then s else s.modPort t fun p =>
    { p with sendList := p.sendList ++ [.watch (s.demand t)], watchEnable := s.demand t } := by
  unfold watchAtActive
  rw [sendWatch_eq]

/-- The demand and the enable agree once the watch has been turned on for the demand. -/
theorem watchAtActive_of_on {x : State} {f : Port → Port} (hd : x.demand t = true) (hf : (f (x.port t)).watchEnable = true) :
    (x.modPort t f).watchAtActive t = x.modPort t f := by
  rw [watchAtActive_eq]
  simp [hd, hf]

theorem watchAfterReport_of_rstOff {s before : State} {t : Index} {hold : Bool} (h : before.outstandingMsg t = some (.rstOff hold)) :
    s.watchAfterReport before t =
      let x := (s.modPort t fun p => { p with watchEnable := false }).rewatch t
      if (before.port t).link = .probing then x.watchAtActive t else x := by
  unfold watchAfterReport
  rw [h]

theorem watchAfterReport_of_other {s before : State} {t : Index} (h : ∀ hold, before.outstandingMsg t ≠ some (.rstOff hold)) :
    s.watchAfterReport before t =
      let x := if (before.port t).watchOwed then s.rewatch t else s
      if (before.port t).link = .probing then x.watchAtActive t else x := by
  unfold watchAfterReport
  split
  · exact absurd ‹_› (h _)
  · rfl

end Machine.State

/-- Settles O50: the answer to RST_OFF and the watch owed end in `rewatch`, which leaves nothing for `watchAtActive` where the demand is
on. -/
theorem watchAfterReport : Obligations.WatchAfterReport := by
  unfold Obligations.WatchAfterReport
  intro s before t
  have hoff (h : ¬ (before.outstandingMsg t = some (.rstOff true) ∨ before.outstandingMsg t = some (.rstOff false))) (hold : Bool) :
      before.outstandingMsg t ≠ some (.rstOff hold) := by
    obtain ⟨h1, h2⟩ := not_or.1 h
    cases hold
    · exact h2
    · exact h1
  refine ⟨fun h => ?_, fun h howed hd => ?_, fun h howed hd => ?_, fun h howed => ?_⟩
  · obtain ⟨hold, hm⟩ : ∃ hold, before.outstandingMsg t = some (.rstOff hold) := by
      rcases h with h | h <;> exact ⟨_, h⟩
    rw [State.watchAfterReport_of_rstOff hm, State.rewatch_eq]
    simp only [State.demand_modPort, State.modPort_modPort]
    cases hd : s.demand t with
    | true => simp [State.watchAtActive_of_on, hd]
    | false => simp [State.watchAtActive_eq, hd]
  · rw [State.watchAfterReport_of_other (hoff h), if_pos howed, State.rewatch_eq, if_pos hd]
    simp [State.watchAtActive_of_on, hd]
  · have hd' : s.demand t = false := by simpa using hd
    rw [State.watchAfterReport_of_other (hoff h), if_pos howed, State.rewatch_eq, hd']
    simp only [Bool.false_eq_true, if_false, State.watchAtActive_eq, State.demand_modPort, hd', State.modPort_port_self]
    cases hw : (s.port t).watchEnable <;> simp
  · rw [State.watchAfterReport_of_other (hoff h), if_neg howed]
    simp only [State.watchAtActive_eq]
    by_cases ha : (before.port t).link = .probing <;> by_cases hw : (s.port t).watchEnable = s.demand t <;> simp [ha, hw]

namespace Machine.State

variable (s : State) (t : Index)

/-! ### Attach (R172, R182) -/

/-- The port of an attach that has begun. -/
def attached (c : PortConfig) (demand : Bool) (p : Port) : Port :=
  { p with
    link := .probing, watchEnable := demand, outstanding := some { msg := .probe, timer := c.run.toNat }
    sendList := p.sendList ++ (if p.resetAsserted then [.rstOff true] else []) ++ [.watch demand, .probe] }

theorem attach_eq : s.attach t = s.modPort t (attached (s.cfg t) (s.demand t)) := by
  have hoff : (if (s.port t).resetAsserted then s.hand t (.rstOff true) else s) =
      s.modPort t fun p => { p with sendList := p.sendList ++ if p.resetAsserted then [.rstOff true] else [] } := by
    cases hr : (s.port t).resetAsserted with
    | true =>
      rw [if_pos rfl, hand_eq _ _ (by simp)]
      exact modPort_congr s t (by simp [hr])
    | false =>
      exact (modPort_fixed s t (by
        have hnone : (if (s.port t).resetAsserted then [PortMsg.rstOff true] else []) = [] := by rw [hr]; rfl
        simp only [hnone, List.append_nil])).symm
  unfold attach
  simp only [hoff, sendWatch_eq, handRc_eq, modPort_modPort, demand_modPort, modPort_cfg]
  refine modPort_congr s t ?_
  simp [attached, RcMsg.timeout, RcMsg.msg]

/-! ### A hub reset (R26) -/

theorem attachIfPresent_eq : s.attachIfPresent t =
    s.modPort t fun p => if p.present then attached (s.cfg t) (s.demand t) p else p := by
  unfold attachIfPresent
  rw [attach_eq]
  split
  · rename_i hp
    exact modPort_congr s t (by simp [hp])
  · rename_i hp
    exact (modPort_fixed s t (by simp [hp])).symm

/-- Attaches begun one after another leave all but the ports alone, and each port is that of its own attach. -/
theorem attachAll_spec (ts : List Index) (hnodup : ts.Nodup) : ∀ s : State,
    let s' := ts.foldl attachIfPresent s
    s'.links = s.links ∧ s'.sessions = s.sessions ∧ s'.notices = s.notices ∧ s'.records = s.records ∧
      ∀ u, s'.rc u = s.rc u ∧ s'.bank u = s.bank u ∧ s'.acc u = s.acc u ∧ s'.cfg u = s.cfg u ∧
        s'.port u = if u ∈ ts ∧ (s.port u).present then attached (s.cfg u) (s.demand u) (s.port u) else s.port u := by
  induction ts with
  | nil => simp
  | cons t ts ih =>
    intro s
    obtain ⟨hnot, hnodup'⟩ := List.nodup_cons.1 hnodup
    obtain ⟨hlinks, hsessions, hnotices, hrecords, hparts⟩ := ih hnodup' (s.attachIfPresent t)
    simp only [List.foldl_cons]
    rw [attachIfPresent_eq] at hlinks hsessions hnotices hrecords hparts ⊢
    refine ⟨hlinks, hsessions, hnotices, hrecords, fun u => ?_⟩
    obtain ⟨hrc, hbank, hacc, hcfg, hport⟩ := hparts u
    refine ⟨by simpa using hrc, by simpa using hbank, by simpa using hacc, by simpa using hcfg, hport.trans ?_⟩
    by_cases hu : u = t
    · subst hu
      simp [hnot]
    · simp [modPort_port_of_ne s _ hu, hu]

/-- Settles O55: every block is set anew, and the attaches then change the ports alone. -/
theorem hubResetSetsResetValues : Obligations.HubResetSetsResetValues := by
  unfold Obligations.HubResetSetsResetValues
  intro s straps
  refine ⟨s.resetHub straps, rfl, ?_⟩
  obtain ⟨hlinks, hsessions, hnotices, hrecords, hparts⟩ := attachAll_spec indices (by decide) (s.afterReset straps)
  have htarget (t : Index) : (s.afterReset straps).target t = .reset (s.port t).present := by simp [afterReset, target, port]
  refine ⟨fun l => ⟨?_, ?_, ?_⟩, hrecords, fun t => ?_⟩
  · unfold link resetHub
    rw [hlinks]
    simp [afterReset]
  · unfold session resetHub
    rw [hsessions]
    simp [afterReset]
  · unfold notice resetHub
    rw [hnotices]
    simp [afterReset]
  · obtain ⟨hrc, hbank, hacc, hcfg, hport⟩ := hparts t
    have hrc0 : (s.afterReset straps).rc t = .reset := congrArg Target.rc (htarget t)
    have hbank0 : (s.afterReset straps).bank t = .all .free := congrArg Target.bank (htarget t)
    have hacc0 : (s.afterReset straps).acc t = .reset := congrArg Target.acc (htarget t)
    have hport0 : (s.afterReset straps).port t = .reset (s.port t).present := congrArg Target.port (htarget t)
    have hcfg0 : (s.afterReset straps).cfg t = .reset := congrArg Target.cfg (htarget t)
    have hdemand : (s.afterReset straps).demand t = false := by
      simp [demand, boundCount, hbank0, Comparator.free]
    refine ⟨hrc.trans hrc0, hbank.trans hbank0, hacc.trans hacc0, hcfg.trans hcfg0, hport.trans ?_⟩
    rw [hport0, hcfg0, hdemand]
    cases hp : (s.port t).present <;> simp [Port.reset, attached, PortConfig.reset, Config.runTimeout]

end Machine.State

end Sys2Proof
end

section
/-! PROOF. A calculus for what the shared operations on one target do from a state on: the port and the access engine, the deferred
responses, the Run Control Unit and the STATE notices, each carried through a chain of operations. -/

namespace Sys2Proof.Machine.State

/-! ### A target's state in normal form -/

/-- `z` after the responses `rs`, with the Run Control Unit `r` on target `t`. -/
def ran (z : State) (t : Index) (rs : List Answer) (r : RunControl) : State := (z.leaves rs).modRc t fun _ => r

section Normal

variable (z : State) (t u : Index) (rs rs' : List Answer) (r : RunControl)

theorem ran_start : z.ran t [] (z.rc t) = z := by
  unfold ran
  refine (modRc_congr z t (g := fun x => x) rfl).trans ?_
  simp [modRc, modTarget]

@[simp] theorem ran_rc : (z.ran t rs r).rc t = r := by simp [ran]

@[simp] theorem ran_acc : (z.ran t rs r).acc u = z.acc u := by simp [ran]

@[simp] theorem ran_port : (z.ran t rs r).port u = z.port u := by simp [ran]

@[simp] theorem ran_cfg : (z.ran t rs r).cfg u = z.cfg u := by simp [ran]

@[simp] theorem ran_bank : (z.ran t rs r).bank u = z.bank u := by simp [ran]

@[simp] theorem ran_isOpen (n : Index) : (z.ran t rs r).isOpen n = z.isOpen n := by simp [ran]

@[simp] theorem ran_watches (n : Index) : (z.ran t rs r).watches n u = z.watches n u := by simp [ran]

theorem leaves_ran : (z.ran t rs r).leaves rs' = z.ran t (rs ++ rs') r := by
  unfold ran
  rw [leaves_modRc, leaves_append]

theorem modRc_ran (f : RunControl → RunControl) : (z.ran t rs r).modRc t f = z.ran t rs (f r) := by
  unfold ran
  rw [modRc_modRc]

/-- Responses and an update of the Run Control Unit, in normal form. -/
theorem leaves_modRc_eq_ran (f : RunControl → RunControl) : (z.leaves rs).modRc t f = z.ran t rs (f (z.rc t)) :=
  modRc_congr _ t (by simp)

theorem modRc_eq_ran (f : RunControl → RunControl) : z.modRc t f = z.ran t [] (f (z.rc t)) := leaves_modRc_eq_ran z t [] f

theorem leaves_modPort (g : Port → Port) : (z.modPort t g).leaves rs = (z.leaves rs).modPort t g := by
  induction rs generalizing z with
  | nil => rfl
  | cons x xs ih => exact ih (z.leaveWindow x.1 x.2.tag)

theorem modPort_ran (g : Port → Port) : (z.ran t rs r).modPort t g = (z.modPort t g).ran t rs r := by
  unfold ran
  rw [leaves_modPort, modRc_modPort]

theorem handRc_ran (c : RcMsg) : (z.ran t rs r).handRc t c = (z.handRc t c).ran t rs r := by
  rw [handRc_eq, handRc_eq, modPort_ran, ran_cfg]

theorem modAcc_ran (g : AccessEngine → AccessEngine) : (z.ran t rs r).modAcc t g = (z.modAcc t g).ran t rs r := by
  unfold ran
  rw [leaves_modAcc, modRc_modAcc]

theorem ran_of_mute {z z' : State} (h : z'.mute = z.mute) (t : Index) (rs : List Answer) (r : RunControl) :
    (z'.ran t rs r).mute = (z.ran t rs r).mute := modRc_of_mute (leaves_of_mute h rs) t _

end Normal

/-! ### Entries in normal form -/

section Entries

variable (z : State) (t : Index) (rs : List Answer) (r : RunControl)

/-- The port after an entry to HALTED, which hands RUN where nobody holds the target and no access is in flight. -/
def haltedPort (z : State) (t : Index) (hold : HoldSet) : State :=
  if hold.isEmpty && !(z.acc t).inFlight then z.handRc t .run else z

theorem haltedEntry_ran (hold : HoldSet) (c : HaltCause) (pc : Addr) : (z.ran t rs r).haltedEntry t hold c pc =
    (z.haltedPort t hold).ran t (rs ++ haltAnswers r hold) (haltedRc (z.acc t) hold c pc r) := by
  unfold haltedEntry haltedPort
  simp only [ran_rc, ran_acc, leaves_ran, modRc_ran]
  split
  · rw [handRc_ran]
  · rfl

/-- The port after a target is found running. -/
def runPort (z : State) (t : Index) (r : RunControl) : State := if r.hold.isEmpty then z else z.handRc t .stop

/-- The Run Control Unit after a target is found running. -/
def runRc (r : RunControl) : RunControl := if r.hold.isEmpty then runningRc r else stoppingRc r

theorem runEntry_ran : (z.ran t rs r).runEntry t = (z.runPort t r).ran t (rs ++ runAnswers r) (runRc r) := by
  unfold runEntry runPort runRc
  simp only [ran_rc]
  split
  · rw [leaves_ran, modRc_ran]
  · rename_i hheld
    rw [modRc_ran, handRc_ran, runAnswers, if_neg hheld, List.append_nil]

/-- The Run Control Unit after UNRESPONSIVE is entered. -/
def unresponsiveRc (r : RunControl) : RunControl :=
  { r with
    run := .unresponsive, waiters := [], relDefer := false, stepSeq := none, resetRec := none
    resetTimer := if r.resetRec.isSome then none else r.resetTimer }

theorem unresponsiveEntry_ran : (z.ran t rs r).unresponsiveEntry t =
    z.ran t (rs ++ allWorkAnswers r .unresponsive .timeout) (unresponsiveRc r) := by
  unfold unresponsiveEntry
  rw [ran_rc, leaves_ran, modRc_ran]
  rfl

theorem haltedEntry_of_mute {s s' : State} (h : s'.mute = s.mute) (t : Index) (hold : HoldSet) (c : HaltCause) (pc : Addr) :
    (s'.haltedEntry t hold c pc).mute = (s.haltedEntry t hold c pc).mute := by
  unfold haltedEntry
  rw [rc_of_mute h, acc_of_mute h]
  have hbase := modRc_of_mute (leaves_of_mute h (haltAnswers (s.rc t) hold)) t (haltedRc (s.acc t) hold c pc)
  simp only
  split
  · exact handRc_of_mute hbase t .run
  · exact hbase

theorem runEntry_of_mute {s s' : State} (h : s'.mute = s.mute) (t : Index) : (s'.runEntry t).mute = (s.runEntry t).mute := by
  unfold runEntry
  rw [rc_of_mute h]
  split
  · exact modRc_of_mute (leaves_of_mute h _) t _
  · exact handRc_of_mute (modRc_of_mute h t _) t .stop

end Entries

/-! ### What was done on one target -/

/-- From `s` to `y`: the responses `rs`, then the Run Control Unit of `t` is `r`, its watchers have heard `bs`, and the rest is as in `z`,
outgoing queues apart. -/
structure Ran (s z y : State) (t : Index) (rs : List Answer) (r : RunControl) (bs : List NoticeBody) : Prop where
  does : s.Does y (z.ran t rs r) rs (s.toWatchers t bs)
  sessions : z.sessions = s.sessions

namespace Ran

variable {s z y : State} {t : Index} {rs : List Answer} {r : RunControl} {bs : List NoticeBody}

/-- A silent change of `s`. -/
theorem start (hl : z.links = s.links) (hn : z.notices = s.notices) (hs : z.sessions = s.sessions) : s.Ran z z t [] (z.rc t) [] :=
  ⟨(Does.silent hl hn).congr (by rw [ran_start]) rfl fun n => by simp [toWatchers], hs⟩

theorem refl (s : State) (t : Index) : s.Ran s s t [] (s.rc t) [] := start rfl rfl rfl

variable (h : s.Ran z y t rs r bs)

include h

theorem mute : y.mute = (z.ran t rs r).mute := h.does.mute

theorem rc : y.rc t = r := by rw [rc_of_mute h.mute, ran_rc]

theorem acc (u : Index) : y.acc u = z.acc u := by rw [acc_of_mute h.mute, ran_acc]

theorem port (u : Index) : y.port u = z.port u := by rw [port_of_mute h.mute, ran_port]

theorem cfg (u : Index) : y.cfg u = z.cfg u := by rw [cfg_of_mute h.mute, ran_cfg]

theorem isOpen (n : Index) : y.isOpen n = s.isOpen n := by rw [isOpen_of_mute h.mute, ran_isOpen, isOpen_congr h.sessions]

theorem watches (n u : Index) : y.watches n u = s.watches n u := by rw [watches_of_mute h.mute, ran_watches, watches_congr h.sessions]

theorem tells : s.tells y t bs := h.does.sends.tells

theorem answered : s.answered y rs := h.does.sends.answered

/-- One more operation, from its own account. -/
theorem next {y' z' b : State} {rs' : List Answer} {r' : RunControl} {bs' : List NoticeBody}
    (d : y.Does y' b rs' (y.toWatchers t bs')) (hb : b.mute = (z'.ran t (rs ++ rs') r').mute) (hz : z'.sessions = s.sessions) :
    s.Ran z' y' t (rs ++ rs') r' (bs ++ bs') :=
  ⟨(h.does.trans h.isOpen d).congr hb rfl fun n => by
    simp only [toWatchers, h.watches]
    split <;> simp, hz⟩

/-- One more operation that answers and tells nothing. -/
theorem silent {y' z' : State} {r' : RunControl} (hl : y'.links = y.links) (hn : y'.notices = y.notices)
    (hm : y'.mute = (z'.ran t rs r').mute) (hz : z'.sessions = s.sessions) : s.Ran z' y' t rs r' bs := by
  have := h.next (rs' := []) (bs' := []) (z' := z') (r' := r') ((Does.silent hl hn).congr rfl rfl fun n => by simp [toWatchers])
    (by rw [List.append_nil]; exact hm) hz
  simpa using this

theorem congr {rs' : List Answer} {r' : RunControl} {bs' : List NoticeBody} (hrs : rs = rs') (hr : r = r') (hbs : bs = bs') :
    s.Ran z y t rs' r' bs' := by
  subst hrs hr hbs
  exact h

theorem modRc (f : RunControl → RunControl) : s.Ran z (y.modRc t f) t rs (f r) bs :=
  h.silent rfl rfl (by rw [modRc_of_mute h.mute, modRc_ran]) h.sessions

theorem modPort (g : Port → Port) : s.Ran (z.modPort t g) (y.modPort t g) t rs r bs :=
  h.silent rfl rfl (by
    have hm : (y.modPort t g).mute = ((z.ran t rs r).modPort t g).mute := congrArg (State.modPort t g) h.mute
    rw [hm, modPort_ran]) h.sessions

theorem modAcc (g : AccessEngine → AccessEngine) : s.Ran (z.modAcc t g) (y.modAcc t g) t rs r bs :=
  h.silent rfl rfl (by
    have hm : (y.modAcc t g).mute = ((z.ran t rs r).modAcc t g).mute := congrArg (State.modAcc t g) h.mute
    rw [hm, modAcc_ran]) h.sessions

theorem handRc (c : RcMsg) : s.Ran (z.handRc t c) (y.handRc t c) t rs r bs :=
  h.silent (by simp) (by simp) (by rw [handRc_of_mute h.mute, handRc_ran]) (by rw [handRc_sessions]; exact h.sessions)

theorem hand {m : PortMsg} (hm : ∀ g, m ≠ .attn g) : s.Ran (z.hand t m) (y.hand t m) t rs r bs := by
  rw [hand_eq z t hm, hand_eq y t hm]
  exact h.modPort _

theorem clearOutstanding : s.Ran (z.clearOutstanding t) (y.clearOutstanding t) t rs r bs := h.modPort _

theorem cancelService : s.Ran (z.cancelService t) (y.cancelService t) t rs r bs := h.clearOutstanding.hand (by simp)

/-! ### Answers -/

theorem answerWaiters (p : Waiter → Bool) (st : Status) :
    s.Ran z (y.answerWaiters t p st) t (rs ++ (r.waiters.filter p).map (waiterAnswer st r.hold))
      { r with waiters := r.waiters.filter fun w => !p w } bs := by
  have d := y.answerWaiters_does t p st
  rw [h.rc] at d
  have h1 := h.next (bs' := []) (z' := z) (r' := { r with waiters := r.waiters.filter fun w => !p w })
    (d.congr rfl rfl fun n => by simp [toWatchers]) (by rw [modRc_of_mute (leaves_of_mute h.mute _) t, leaves_ran, modRc_ran]) h.sessions
  exact h1.congr rfl rfl (List.append_nil _)

theorem answerAll (st : Status) : s.Ran z (y.answerAll t st) t (rs ++ allAnswers r st) { r with waiters := [] } bs :=
  (h.answerWaiters (fun _ => true) st).congr (by rw [List.filter_true]; rfl) (by simp) rfl

theorem failSeq (st : Status) : s.Ran z (y.failSeq t st) t (rs ++ (r.stepSeq.map fun q => seqAnswer r q st).getD [])
    { r with stepSeq := none } bs := by
  have d := y.failSeq_does t st
  rw [h.rc] at d
  have h1 := h.next (bs' := []) (z' := z) (r' := { r with stepSeq := none })
    (d.congr rfl rfl fun n => by simp [toWatchers]) (by rw [modRc_of_mute (leaves_of_mute h.mute _) t, leaves_ran, modRc_ran]) h.sessions
  exact h1.congr rfl rfl (List.append_nil _)

theorem endReset (st : Status) (payload : List Byte) :
    s.Ran z (y.endReset t st payload) t (rs ++ (r.resetRec.map fun q => resetAnswer q st payload).getD [])
      { r with resetRec := none, resetTimer := if r.resetRec.isSome then none else r.resetTimer } bs := by
  have d := y.endReset_does t st payload
  rw [h.rc] at d
  have h1 := h.next (bs' := []) (z' := z)
    (r' := { r with resetRec := none, resetTimer := if r.resetRec.isSome then none else r.resetTimer })
    (d.congr rfl rfl fun n => by simp [toWatchers]) (by rw [modRc_of_mute (leaves_of_mute h.mute _) t, leaves_ran, modRc_ran]) h.sessions
  exact h1.congr rfl rfl (List.append_nil _)

/-- One access answered and dropped from the queue. -/
theorem access {y' : State} {as : List Answer} {g : AccessEngine → AccessEngine}
    (d : y.Does y' ((y.leaves as).modAcc t g) as fun _ => []) : s.Ran (z.modAcc t g) y' t (rs ++ as) r bs := by
  have h1 := h.next (bs' := []) (z' := z.modAcc t g) (r' := r) (d.congr rfl rfl fun n => by simp [toWatchers])
    (by rw [modAcc_of_mute (leaves_of_mute h.mute _) t, leaves_ran, modAcc_ran]) h.sessions
  exact h1.congr rfl rfl (List.append_nil _)

theorem failHead {e : AccEntry} {rest : List AccEntry} (hq : (z.acc t).queue = e :: rest) (st : Status) :
    s.Ran (z.modAcc t fun a => { a with queue := rest }) (y.failHead t st) t (rs ++ accessAnswer e st []) r bs :=
  h.access (y.failHead_does t (by rw [h.acc]; exact hq) st)

theorem failAllAccesses (st : Status) :
    s.Ran (z.modAcc t fun a => { a with queue := [], exchange := none }) (y.failAllAccesses t st) t
      (rs ++ ((z.acc t).queue.map fun e => accessAnswer e st []).flatten) r bs := by
  have d := y.failAllAccesses_does t st
  rw [h.acc] at d
  exact h.access d

/-! ### Notices and entries -/

theorem notifyState : s.Ran z (y.notifyState t) t rs r
    (bs ++ [.state t r.run r.hold r.lock (if r.run = .halted then some (r.haltCause, r.lastPc) else none)]) := by
  have d := y.notifyState_does t
  have hbody : y.stateBody t = .state t r.run r.hold r.lock (if r.run = .halted then some (r.haltCause, r.lastPc) else none) := by
    unfold stateBody
    rw [h.rc]
  rw [hbody] at d
  exact (h.next d (by rw [List.append_nil]; exact h.mute) h.sessions).congr (List.append_nil _) rfl rfl

theorem setRun (x : RunState) : s.Ran z (y.setRun t x) t rs { r with run := x }
    (bs ++ [.state t x r.hold r.lock (if x = .halted then some (r.haltCause, r.lastPc) else none)]) :=
  (h.modRc fun r => { r with run := x }).notifyState

theorem stop : s.Ran (z.handRc t .stop) (y.stop t) t rs (stoppingRc r) (bs ++ [.state t .stopping r.hold r.lock none]) := by
  have d := y.stop_does t
  rw [h.rc] at d
  exact (h.next d (by rw [List.append_nil, handRc_of_mute (modRc_of_mute h.mute t _) t, modRc_ran, handRc_ran])
    (by rw [handRc_sessions]; exact h.sessions)).congr (List.append_nil _) rfl rfl

theorem release (hidle : (z.acc t).inFlight = false) : s.Ran (z.handRc t .run) (y.release t) t rs
    { r with run := .releasing, relDefer := false } (bs ++ [.state t .releasing r.hold r.lock none]) := by
  have d := y.release_made t (by rw [h.acc]; exact hidle)
  rw [h.rc] at d
  exact (h.next d (by rw [List.append_nil, handRc_of_mute (modRc_of_mute h.mute t _) t, modRc_ran, handRc_ran])
    (by rw [handRc_sessions]; exact h.sessions)).congr (List.append_nil _) rfl rfl

theorem deferRelease (hfly : (z.acc t).inFlight = true) : s.Ran z (y.release t) t rs { r with relDefer := true } bs := by
  rw [y.release_deferred t (by rw [h.acc]; exact hfly)]
  exact h.modRc _

theorem enterHalted (c : HaltCause) : s.Ran (z.haltedPort t r.hold) (y.enterHalted t c) t (rs ++ haltAnswers r r.hold)
    (haltedRc (z.acc t) r.hold c r.lastPc r) (bs ++ haltNotices t r (z.acc t) r.hold c r.lastPc) := by
  have d := y.enterHalted_does t c
  rw [h.rc, h.acc] at d
  refine h.next d (by rw [haltedEntry_of_mute h.mute, haltedEntry_ran]) ?_
  unfold haltedPort
  split
  · rw [handRc_sessions]; exact h.sessions
  · exact h.sessions

theorem runOrStop : s.Ran (z.runPort t r) (y.runOrStop t) t (rs ++ runAnswers r) (runRc r) (bs ++ runNotices t r) := by
  have d := y.runOrStop_does t
  rw [h.rc] at d
  refine h.next d (by rw [runEntry_of_mute h.mute, runEntry_ran]) ?_
  unfold runPort
  split
  · exact h.sessions
  · rw [handRc_sessions]; exact h.sessions

theorem enterRunning : s.Ran z (y.enterRunning t) t (rs ++ kindAnswers r .resume r.hold) (runningRc r)
    (bs ++ [.state t .running r.hold r.lock none]) := by
  have d := y.enterRunning_does t
  rw [h.rc] at d
  exact h.next d (by rw [modRc_of_mute (leaves_of_mute h.mute _) t, leaves_ran, modRc_ran]) h.sessions

theorem enterUnresponsive : s.Ran z (y.enterUnresponsive t) t (rs ++ allWorkAnswers r .unresponsive .timeout) (unresponsiveRc r)
    (bs ++ [.state t .unresponsive r.hold r.lock none]) := by
  have d := y.enterUnresponsive_does t
  rw [h.rc] at d
  refine h.next d ?_ h.sessions
  unfold unresponsiveEntry
  rw [h.rc, modRc_of_mute (leaves_of_mute h.mute _) t, leaves_ran, modRc_ran]
  rfl

theorem detach (x : LinkState) : s.Ran ((z.idlePort t x).modAcc t fun a => { a with queue := [], exchange := none }) (y.detach t x) t
    (rs ++ (allWorkAnswers r .detached .detached ++ ((z.acc t).queue.map fun e => accessAnswer e .detached []).flatten))
    { r with
      run := .detached, waiters := [], relDefer := false, stopCause := none, stepSeq := none, resetRec := none
      resetTimer := if r.resetRec.isSome then none else r.resetTimer }
    (bs ++ [.state t .detached r.hold r.lock none]) := by
  have h1 := (((((h.modPort fun p => { p with outstanding := none, sendList := [], link := x }).modRc fun r =>
    { r with run := .detached, relDefer := false, stopCause := none }).endReset .detached []).answerAll .detached).failSeq
    .detached).failAllAccesses .detached
  refine h1.notifyState.congr ?_ rfl (by simp)
  simp only [modPort_acc, List.append_assoc, allWorkAnswers, allAnswers]
  cases r.stepSeq <;> cases r.resetRec <;> rfl

end Ran

end Sys2Proof.Machine.State
end

section
/-! PROOF. HALTED and RUNNING reports by the run state they find, and the end of a target reset by a report (Tables 1-5 and 1-6, R18,
R22, R191). -/

namespace Sys2Proof.Machine.State

variable (s : State) (t : Index)

/-! ### The way of a report through the port -/

/-- A report answers the outstanding message. -/
def answersOutstanding (answers : RcMsg → Bool) : Bool := match s.outstandingMsg t with | some m => answers m | none => false

theorem reportTaken_active {answers : RcMsg → Bool} (h : (s.port t).link = .active) :
    s.reportTaken t answers = if s.answersOutstanding t answers then s.clearOutstanding t else s := by
  unfold reportTaken answersOutstanding
  rw [h]
  cases s.outstandingMsg t <;> rfl

theorem reportTaken_probing {answers : RcMsg → Bool} (h : (s.port t).link = .probing) (hm : s.outstandingMsg t = some .probe)
    (ha : answers .probe = true) :
    s.reportTaken t answers = (s.clearOutstanding t).modPort t fun p => { p with link := .active } := by
  unfold reportTaken
  rw [h, hm]
  simp only [ha]
  rfl

/-- The port takes the message that a report answers away, and is ACTIVE; nothing else changes. -/
theorem reportTaken_ran (answers : RcMsg → Bool) :
    s.Ran (s.reportTaken t answers) (s.reportTaken t answers) t [] (s.rc t) [] := by
  obtain ⟨f, hf⟩ : ∃ f, s.reportTaken t answers = s.modPort t f := by
    have hid : s = s.modPort t id := (modPort_fixed s t rfl).symm
    unfold reportTaken clearOutstanding
    simp only
    split
    · split
      · split
        · exact ⟨_, modPort_modPort s t _ _⟩
        · exact ⟨_, rfl⟩
      · exact ⟨_, rfl⟩
    · split
      · split
        · exact ⟨_, rfl⟩
        · exact ⟨_, hid⟩
      · exact ⟨_, hid⟩
  rw [hf]
  exact (Ran.refl s t).modPort f

theorem watchAfterReport_rc (before : State) (u : Index) : (s.watchAfterReport before t).rc u = s.rc u := by
  have hrewatch (x : State) : (x.rewatch t).rc u = x.rc u := by
    rw [rewatch_eq]
    split <;> simp
  have hactive (x : State) : (x.watchAtActive t).rc u = x.rc u := by
    rw [watchAtActive_eq]
    split <;> simp
  unfold State.watchAfterReport
  simp only
  split <;> (try rw [hactive]) <;> split <;> (try split) <;> simp [hrewatch]

/-- A report after which the Run Control Unit is in another run state. -/
theorem Ran.taken {s z : State} {t : Index} {answers : RcMsg → Bool} {f : Bool → State → State} {rs : List Answer} {r : RunControl}
    {bs : List NoticeBody} (h : s.Ran z (f ((s.port t).link == .probing) (s.reportTaken t answers)) t rs r bs)
    (hkept : s.discardsReports t = false) (hrun : r.run ≠ (s.rc t).run) :
    ∃ u, s.takeReport t answers f = (u.watchAfterReport s t).examine t ∧ u.mute = (z.ran t rs r).mute ∧ s.tells u t bs ∧
      s.answered u rs := by
  refine ⟨_, ?_, h.mute, h.tells, h.answered⟩
  rw [takeReport_eq, hkept]
  refine examineSince_of_ne _ _ ?_
  rw [watchAfterReport_rc, h.rc]
  exact hrun

theorem exec_haltedReport {flags check : Byte} {pc : Addr} (hwf : (Instr.haltedReport t flags pc check).wellFormed = true)
    (hup : (s.port t).link = .probing ∨ (s.port t).link = .active) :
    exec (.haltedReport t flags pc check) s = .next (s.takeReport t RcMsg.answeredByHalted fun probing =>
      haltedByRun t (selfFlag flags) (stepFlag flags) probing pc) := by
  refine congrArg Host.Outcome.next ((arrives_of_wellFormed s rfl hwf _).trans (if_pos ?_))
  unfold reportsArrive
  rcases hup with h | h <;> rw [h]

theorem exec_runningReport {check : Byte} (hwf : (Instr.runningReport t check).wellFormed = true)
    (hup : (s.port t).link = .probing ∨ (s.port t).link = .active) :
    exec (.runningReport t check) s =
      .next (s.takeReport t RcMsg.answeredByRunning fun probing => runningByRun t probing) := by
  refine congrArg Host.Outcome.next ((arrives_of_wellFormed s rfl hwf _).trans (if_pos ?_))
  unfold reportsArrive
  rcases hup with h | h <;> rw [h]

theorem discardsReports_of_run (h : (s.rc t).run ≠ .resetting) : s.discardsReports t = false := by
  unfold discardsReports
  split
  · exact absurd ‹_› h
  · rfl

/-! ### Entries by a report -/

theorem haltedEntry_eq_ran (z : State) (hold : HoldSet) (c : HaltCause) (pc : Addr) : z.haltedEntry t hold c pc =
    (z.haltedPort t hold).ran t (haltAnswers (z.rc t) hold) (haltedRc (z.acc t) hold c pc (z.rc t)) := by
  have h := haltedEntry_ran z t [] (z.rc t) hold c pc
  rwa [ran_start] at h

theorem runEntry_eq_ran (z : State) :
    z.runEntry t = (z.runPort t (z.rc t)).ran t (runAnswers (z.rc t)) (runRc (z.rc t)) := by
  have h := runEntry_ran z t [] (z.rc t)
  rwa [ran_start] at h

/-- HALTED entered by a report with program counter `pc`, SELF joining where `joins`. -/
theorem Ran.haltsAt {s z y : State} {t : Index} {rs : List Answer} {r : RunControl} {bs : List NoticeBody}
    (h : s.Ran z y t rs r bs) (pc : Addr) (joins : Bool) (c : HaltCause) :
    let hold := if joins then r.hold.addSelf else r.hold
    s.Ran (z.haltedPort t hold) ((if joins then (y.setPc t pc).selfJoins t else y.setPc t pc).enterHalted t c) t
      (rs ++ haltAnswers r hold) (haltedRc (z.acc t) hold c pc r) (bs ++ haltNotices t r (z.acc t) hold c pc) := by
  have hpc := h.modRc fun r => { r with lastPc := pc }
  cases joins with
  | false => exact (hpc.enterHalted c).congr rfl rfl rfl
  | true => exact ((hpc.modRc fun r => { r with hold := r.hold.addSelf }).enterHalted c).congr rfl rfl rfl

theorem haltedRc_run_ne {a : AccessEngine} {hold : HoldSet} {c : HaltCause} {pc : Addr} {r : RunControl} (hh : r.run ≠ .halted)
    (hr : r.run = .releasing → hold.isEmpty = false) : (haltedRc a hold c pc r).run ≠ r.run := by
  unfold haltedRc
  simp only
  split
  · rename_i hmade
    intro hrun
    simp [hr hrun.symm] at hmade
  · exact Ne.symm hh

theorem selfJoinsIfEmpty_setPc {s z y : State} {t : Index} {rs : List Answer} {r : RunControl} {bs : List NoticeBody}
    (h : s.Ran z y t rs r bs) (pc : Addr) : (y.setPc t pc).selfJoinsIfEmpty t =
      if r.hold.isEmpty then (y.setPc t pc).selfJoins t else y.setPc t pc := by
  unfold selfJoinsIfEmpty
  have hpc : s.Ran z (y.setPc t pc) t rs { r with lastPc := pc } bs := h.modRc fun r => { r with lastPc := pc }
  rw [hpc.rc]

/-- SELF joins the hold set at a HALTED report (Table 1-5). -/
def selfJoinsAt (r : RunControl) (self : Bool) : Bool :=
  if r.run = .stopping then self else if r.run = .unresponsive then r.hold.isEmpty else true

/-- The halt cause that a HALTED report gives (Table 1-5). -/
def causeAt (r : RunControl) : HaltCause :=
  if r.run = .stopping ∨ r.run = .unresponsive then causeOfStop r.stopCause else .self

/-- The port as HALTED is entered: a service request is cancelled. -/
def quitService (r : RunControl) (z : State) : State := if r.run = .svcPending then z.cancelService t else z

/-- A HALTED report in the run states that enter HALTED by it. -/
theorem Ran.haltedByRun {s z y : State} {t : Index} {rs : List Answer} {r : RunControl} {bs : List NoticeBody}
    (h : s.Ran z y t rs r bs) (self step probing : Bool) (pc : Addr)
    (hrun : r.run ∈ [.running, .stopping, .releasing, .svcPending, .service, .unresponsive]) :
    let hold := if selfJoinsAt r self then r.hold.addSelf else r.hold
    s.Ran ((quitService t r z).haltedPort t hold) (y.haltedByRun t self step probing pc) t (rs ++ haltAnswers r hold)
      (haltedRc (z.acc t) hold (causeAt r) pc r) (bs ++ haltNotices t r (z.acc t) hold (causeAt r) pc) := by
  have hjoin (joins : Bool) (c : HaltCause) := h.haltsAt pc joins c
  unfold State.haltedByRun
  rw [h.rc]
  simp only [List.mem_cons, List.not_mem_nil, or_false] at hrun
  rcases hrun with hrun | hrun | hrun | hrun | hrun | hrun <;>
    simp only [hrun, selfJoinsAt, causeAt, quitService, reduceCtorEq, or_false, or_true, if_true, if_false]
  case inr.inl => exact hjoin self _
  case inr.inr.inr.inl =>
    have hcancelled := h.cancelService.haltsAt pc true .self
    simp only [if_true, cancelService_acc] at hcancelled
    exact hcancelled
  case inr.inr.inr.inr.inr =>
    rw [selfJoinsIfEmpty_setPc h pc]
    exact hjoin r.hold.isEmpty _
  all_goals exact hjoin true .self

/-- Settles O6: each run state enters HALTED by one operation, with SELF joining by the row of Table 1-5. -/
theorem haltedReportEntersHalted : Obligations.HaltedReportEntersHalted := by
  unfold Obligations.HaltedReportEntersHalted
  intro s t flags check pc hwf hlink hrun
  have hne : (s.rc t).run ≠ .halted ∧ (s.rc t).run ≠ .resetting := by
    constructor <;> intro hr <;> simp [hr] at hrun
  have h0 := reportTaken_ran s t RcMsg.answeredByHalted
  have hacc : (s.reportTaken t RcMsg.answeredByHalted).acc t = s.acc t := by
    rw [reportTaken_active s t hlink]
    split <;> simp
  have h1 := h0.haltedByRun (selfFlag flags) (stepFlag flags) ((s.port t).link == .probing) pc hrun
  simp only [hacc, List.nil_append] at h1
  obtain ⟨u, htake, hmute, htells, hanswered⟩ := Ran.taken (answers := RcMsg.answeredByHalted)
    (f := fun probing => State.haltedByRun t (selfFlag flags) (stepFlag flags) probing pc) h1 (discardsReports_of_run s t hne.2)
    (haltedRc_run_ne hne.1 fun hr => by simp [selfJoinsAt, hr, HoldSet.isEmpty_addSelf])
  refine ⟨u, (exec_haltedReport s t hwf (.inr hlink)).trans (congrArg Host.Outcome.next htake), hmute.trans ?_, htells, hanswered⟩
  have hentry := haltedEntry_eq_ran t (quitService t (s.rc t) (s.reportTaken t RcMsg.answeredByHalted))
    (if selfJoinsAt (s.rc t) (selfFlag flags) then (s.rc t).hold.addSelf else (s.rc t).hold) (causeAt (s.rc t)) pc
  have hquit (z : State) : (quitService t (s.rc t) z).rc t = z.rc t ∧ (quitService t (s.rc t) z).acc t = z.acc t := by
    unfold quitService
    split <;> simp
  rw [(hquit _).1, (hquit _).2, h0.rc, hacc] at hentry
  rw [← hentry, reportTaken_active s t hlink]
  rfl

/-- A target found running enters RUNNING, or is stopped. -/
theorem Ran.enterRunning_of_free {s z y : State} {t : Index} {rs : List Answer} {r : RunControl} {bs : List NoticeBody}
    (h : s.Ran z y t rs r bs) (hfree : r.hold.isEmpty = true) :
    s.Ran (z.runPort t r) (y.enterRunning t) t (rs ++ runAnswers r) (runRc r) (bs ++ runNotices t r) := by
  have h1 := h.runOrStop
  unfold State.runOrStop at h1
  rwa [h.rc, if_pos hfree] at h1

theorem Ran.stop_of_held {s z y : State} {t : Index} {rs : List Answer} {r : RunControl} {bs : List NoticeBody}
    (h : s.Ran z y t rs r bs) (hheld : r.hold.isEmpty = false) :
    s.Ran (z.runPort t r) (y.stop t) t (rs ++ runAnswers r) (runRc r) (bs ++ runNotices t r) := by
  have h1 := h.runOrStop
  unfold State.runOrStop at h1
  rwa [h.rc, if_neg (by simp [hheld])] at h1

/-- A RUNNING report in the run states that enter RUNNING or STOPPING by it. -/
theorem Ran.runningByRun {s z y : State} {t : Index} {rs : List Answer} {r : RunControl} {bs : List NoticeBody}
    (h : s.Ran z y t rs r bs) (probing : Bool) (hrun : r.run ∈ [.halted, .releasing, .unresponsive]) :
    let held := r.run = .releasing ∧ ¬ r.hold.isEmpty
    s.Ran (z.runPort t r) (y.runningByRun t probing) t (rs ++ if held then kindAnswers r .resume r.hold else runAnswers r)
      (runRc (if held then { r with waiters := r.waiters.filter fun w => w.kind != .resume } else r)) (bs ++ runNotices t r) := by
  unfold State.runningByRun
  rw [h.rc]
  simp only [List.mem_cons, List.not_mem_nil, or_false] at hrun
  rcases hrun with hrun | hrun | hrun <;> simp only [hrun, reduceCtorEq, false_and, true_and, if_false]
  · refine (h.modRc fun r => { r with relDefer := false }).runOrStop.congr rfl ?_ rfl
    unfold runRc
    split <;> rfl
  · cases hhold : r.hold.isEmpty with
    | true =>
      simp only [not_true_eq_false, if_false, if_true]
      exact h.enterRunning_of_free hhold
    | false =>
      simp only [Bool.false_eq_true, not_false_eq_true, if_true, if_false]
      have h1 := (h.answerWaiters (fun w => w.kind == .resume) .ok).stop_of_held hhold
      refine h1.congr ?_ rfl rfl
      simp [runAnswers, hhold, kindAnswers]
  · exact h.runOrStop

theorem runRc_run_ne {r r' : RunControl} (hrun : r.run ≠ .running ∧ r.run ≠ .stopping) :
    (runRc r').run ≠ r.run := by
  unfold runRc
  split
  · exact Ne.symm hrun.1
  · exact Ne.symm hrun.2

/-- Settles O7: RUNNING or a stop, with the RESUME waiters answered first in RELEASING. -/
theorem runningReportEntersRunningOrStops : Obligations.RunningReportEntersRunningOrStops := by
  unfold Obligations.RunningReportEntersRunningOrStops
  intro s t check hwf hlink hrun
  have hne : (s.rc t).run ≠ .resetting ∧ (s.rc t).run ≠ .running ∧ (s.rc t).run ≠ .stopping := by
    refine ⟨?_, ?_, ?_⟩ <;> intro hr <;> simp [hr] at hrun
  have h0 := reportTaken_ran s t RcMsg.answeredByRunning
  have h1 := h0.runningByRun ((s.port t).link == .probing) hrun
  simp only [List.nil_append] at h1
  obtain ⟨u, htake, hmute, htells, hanswered⟩ := Ran.taken (answers := RcMsg.answeredByRunning)
    (f := fun probing => State.runningByRun t probing) h1 (discardsReports_of_run s t hne.1)
    (runRc_run_ne hne.2)
  refine ⟨u, (exec_runningReport s t hwf (.inr hlink)).trans (congrArg Host.Outcome.next htake), hmute.trans ?_, htells, hanswered⟩
  have hentry : ((s.reportTaken t RcMsg.answeredByRunning).runPort t (s.rc t)).ran t
      (if (s.rc t).run = .releasing ∧ ¬ (s.rc t).hold.isEmpty then kindAnswers (s.rc t) .resume (s.rc t).hold else runAnswers (s.rc t))
      (runRc (if (s.rc t).run = .releasing ∧ ¬ (s.rc t).hold.isEmpty then
        { s.rc t with waiters := (s.rc t).waiters.filter fun w => w.kind != .resume } else s.rc t)) =
      (if (s.rc t).run = .releasing ∧ ¬ (s.rc t).hold.isEmpty then
        ((s.reportTaken t RcMsg.answeredByRunning).leaves (kindAnswers (s.rc t) .resume (s.rc t).hold)).modRc t
          fun x => { x with waiters := x.waiters.filter fun w => w.kind != .resume }
      else s.reportTaken t RcMsg.answeredByRunning).runEntry t := by
    split
    · rename_i hheld
      rw [leaves_modRc_eq_ran, runEntry_ran, h0.rc]
      simp [runAnswers, hheld.2, runPort]
    · rw [runEntry_eq_ran, h0.rc]
  rw [hentry, reportTaken_active s t hlink]
  rfl

/-! ### Reports that enter nothing -/

/-- A report to an ACTIVE port that leaves the run state and owes no WATCH. -/
theorem takeReport_of_run_eq {answers : RcMsg → Bool} {f : Bool → State → State} (hkept : s.discardsReports t = false)
    (hlink : (s.port t).link = .active) (howed : (s.port t).watchOwed = false)
    (hnot : ∀ hold, s.outstandingMsg t ≠ some (.rstOff hold))
    (hrun : ((f false (s.reportTaken t answers)).rc t).run = (s.rc t).run) :
    s.takeReport t answers f = f false (s.reportTaken t answers) := by
  have hwatch (x : State) : x.watchAfterReport s t = x := by
    rw [watchAfterReport_of_other hnot, howed, hlink]
    rfl
  rw [takeReport_eq, hkept, hlink]
  show ((f false (s.reportTaken t answers)).watchAfterReport s t).examineSince s t = f false (s.reportTaken t answers)
  rw [hwatch]
  exact if_pos hrun

theorem reportTaken_of_unanswered {answers : RcMsg → Bool} (hlink : (s.port t).link = .active)
    (hanswers : s.answersOutstanding t answers = false) : s.reportTaken t answers = s := by
  rw [reportTaken_active s t hlink, hanswers]
  rfl

theorem reportTaken_of_answered {answers : RcMsg → Bool} (hlink : (s.port t).link = .active)
    (hanswers : s.answersOutstanding t answers = true) : s.reportTaken t answers = s.clearOutstanding t := by
  rw [reportTaken_active s t hlink, if_pos hanswers]

/-- Settles O8: the Run Control Unit's part leaves the run state, and the port has nothing to do. -/
theorem reportsThatEnterNothing : Obligations.ReportsThatEnterNothing := by
  unfold Obligations.ReportsThatEnterNothing
  refine ⟨fun s t flags check pc hwf hlink hrun hout howed => ?_, fun s t check hwf hlink hrun howed hnone => ?_⟩
  · have hmsg : s.outstandingMsg t = none := by simp [outstandingMsg, hout]
    have hby : haltedByRun t (selfFlag flags) (stepFlag flags) false pc s = s.setPc t pc := by
      unfold State.haltedByRun
      rw [hrun]
    have htaken : s.reportTaken t RcMsg.answeredByHalted = s := reportTaken_of_unanswered s t hlink (by simp [answersOutstanding, hmsg])
    rw [exec_haltedReport s t hwf (.inr hlink), takeReport_of_run_eq s t (discardsReports_of_run s t (by simp [hrun])) hlink howed
      (by simp [hmsg]) (by rw [htaken, hby]; simp [setPc]), htaken, hby]
    rfl
  · have hby : runningByRun t false s = s := by
      unfold State.runningByRun
      simp only [List.mem_cons, List.not_mem_nil, or_false] at hrun
      rcases hrun with hrun | hrun | hrun | hrun <;> rw [hrun]
    have hne : (s.rc t).run ≠ .resetting := by
      intro hr
      simp [hr] at hrun
    have hanswers : s.answersOutstanding t RcMsg.answeredByRunning = false := by
      unfold answersOutstanding
      cases hm : s.outstandingMsg t with
      | none => rfl
      | some m => exact hnone m (by simp [hm])
    have hnot (hold : Bool) : s.outstandingMsg t ≠ some (.rstOff hold) := fun hm => absurd (hnone _ hm) (by simp [RcMsg.answeredByRunning])
    have htaken := reportTaken_of_unanswered s t hlink hanswers
    rw [exec_runningReport s t hwf (.inr hlink), takeReport_of_run_eq s t (discardsReports_of_run s t hne) hlink howed hnot
      (by rw [htaken, hby]), htaken, hby]

/-! ### The answer to the attach PROBE -/

/-- Settles O9: the answer makes the port ACTIVE, and the target then enters HALTED or is found running. -/
theorem probeAnswerAgreesWithHoldSet : Obligations.ProbeAnswerAgreesWithHoldSet := by
  unfold Obligations.ProbeAnswerAgreesWithHoldSet
  intro s t flags check pc hlink hm hrun
  have hkept : s.discardsReports t = false := discardsReports_of_run s t (by simp [hrun])
  have hprobing : ((s.port t).link == .probing) = true := by simp [hlink]
  refine ⟨fun hwf => ?_, fun hwf => ?_⟩
  · have h0 := reportTaken_ran s t RcMsg.answeredByHalted
    have h1 := h0.haltsAt pc (s.rc t).hold.isEmpty .self
    have hby : haltedByRun t (selfFlag flags) (stepFlag flags) true pc (s.reportTaken t RcMsg.answeredByHalted) =
        (if (s.rc t).hold.isEmpty then ((s.reportTaken t RcMsg.answeredByHalted).setPc t pc).selfJoins t
          else (s.reportTaken t RcMsg.answeredByHalted).setPc t pc).enterHalted t .self := by
      unfold State.haltedByRun
      rw [h0.rc, hrun]
      simp only [if_true]
      rw [selfJoinsIfEmpty_setPc h0 pc]
    simp only [← hby, List.nil_append] at h1
    obtain ⟨u, htake, hmute, htells, hanswered⟩ := Ran.taken (answers := RcMsg.answeredByHalted)
      (f := fun probing => State.haltedByRun t (selfFlag flags) (stepFlag flags) probing pc) (by rw [hprobing]; exact h1) hkept
      (haltedRc_run_ne (by simp [hrun]) (by simp [hrun]))
    have htaken := reportTaken_probing s t (answers := RcMsg.answeredByHalted) hlink hm rfl
    have hacc : (s.reportTaken t RcMsg.answeredByHalted).acc t = s.acc t := by rw [htaken]; simp
    rw [hacc] at hmute htells
    refine ⟨u, (exec_haltedReport s t hwf (.inl hlink)).trans (congrArg Host.Outcome.next htake), hmute.trans ?_, htells, hanswered⟩
    have hentry := haltedEntry_eq_ran t (s.reportTaken t RcMsg.answeredByHalted)
      (if (s.rc t).hold.isEmpty then (s.rc t).hold.addSelf else (s.rc t).hold) .self pc
    rw [h0.rc, hacc] at hentry
    rw [← hentry, htaken]
  · have h0 := reportTaken_ran s t RcMsg.answeredByRunning
    have hby : runningByRun t true (s.reportTaken t RcMsg.answeredByRunning) =
        (s.reportTaken t RcMsg.answeredByRunning).runOrStop t := by
      unfold State.runningByRun
      rw [h0.rc, hrun]
      simp only [if_true]
    have h1 := h0.runOrStop
    simp only [← hby, List.nil_append] at h1
    obtain ⟨u, htake, hmute, htells, hanswered⟩ := Ran.taken (answers := RcMsg.answeredByRunning)
      (f := fun probing => State.runningByRun t probing) (by rw [hprobing]; exact h1) hkept (runRc_run_ne (by simp [hrun]))
    refine ⟨u, (exec_runningReport s t hwf (.inl hlink)).trans (congrArg Host.Outcome.next htake), hmute.trans ?_, htells, hanswered⟩
    have hentry := runEntry_eq_ran t (s.reportTaken t RcMsg.answeredByRunning)
    rw [h0.rc] at hentry
    rw [← hentry, reportTaken_probing s t (answers := RcMsg.answeredByRunning) hlink hm rfl]

end Sys2Proof.Machine.State
end

section
/-! PROOF. The stop and run timers, PRESENT, the reset hold timer and the end of a target reset by a report (R19, R23, R190, R191). -/

namespace Sys2Proof.Machine.State

/-! ### Timers (R19, R176) -/

theorem unresponsiveEntry_eq_ran (z : State) (t : Index) : z.unresponsiveEntry t =
    z.ran t (allWorkAnswers (z.rc t) .unresponsive .timeout) (unresponsiveRc (z.rc t)) := leaves_modRc_eq_ran z t _ _

theorem expireRc_ran (s : State) (t : Index) : s.Ran (s.clearOutstanding t) (s.expireRc t) t
    (allWorkAnswers (s.rc t) .unresponsive .timeout) (unresponsiveRc (s.rc t))
    [.state t .unresponsive (s.rc t).hold (s.rc t).lock none] :=
  (Ran.refl s t).clearOutstanding.enterUnresponsive

/-- Settles O10: every expiry ends in UNRESPONSIVE, and the port of a PROBE or an RST_OFF is changed after it. -/
theorem stopAndRunTimeoutsMakeUnresponsive : Obligations.StopAndRunTimeoutsMakeUnresponsive := by
  unfold Obligations.StopAndRunTimeoutsMakeUnresponsive
  intro s t
  have h := expireRc_ran s t
  have hs1 : (s.clearOutstanding t).unresponsiveEntry t = (s.clearOutstanding t).ran t
      (allWorkAnswers (s.rc t) .unresponsive .timeout) (unresponsiveRc (s.rc t)) := by
    rw [unresponsiveEntry_eq_ran, clearOutstanding_rc]
  have hported (f : Port → Port) : ((s.expireRc t).modPort t f).mute =
      (((s.clearOutstanding t).unresponsiveEntry t).modPort t f).mute := by
    rw [(h.modPort f).mute, hs1, modPort_ran]
  simp only
  refine ⟨fun hm => ⟨s.expireRc t, ?_, by rw [h.mute, hs1], h.tells, h.answered⟩,
    fun hm => ⟨s.expireRc t, ?_, by rw [h.mute, hs1], h.tells, h.answered⟩,
    fun hm => ⟨(s.expireRc t).modPort t fun p => { p with link := .active }, ?_, hported _, (h.modPort _).tells, (h.modPort _).answered⟩,
    fun flag hm => ⟨(s.expireRc t).modPort t fun p => { p with watchEnable := false, watchOwed := true }, ?_, hported _,
      (h.modPort _).tells, (h.modPort _).answered⟩⟩
  · refine congrArg Host.Outcome.next ?_
    unfold takeStopTimeout
    simp only [List.mem_cons, List.not_mem_nil, or_false] at hm
    rcases hm with hm | hm | hm <;> rw [hm]
  all_goals
    refine congrArg Host.Outcome.next ?_
    unfold takeRunTimeout
    rw [hm]

/-! ### PRESENT (R172) -/

theorem detachedEntry_eq_ran (z : State) (t : Index) (x : LinkState) : z.detachedEntry t x =
    ((z.idlePort t x).modAcc t fun a => { a with queue := [], exchange := none }).ran t (z.detachAnswers t)
      { z.rc t with
        run := .detached, waiters := [], relDefer := false, stopCause := none, stepSeq := none, resetRec := none
        resetTimer := if (z.rc t).resetRec.isSome then none else (z.rc t).resetTimer } := by
  unfold detachedEntry
  rw [leaves_modRc_eq_ran, modAcc_ran, modPort_rc]
  rfl

/-- A detach from a state that differs from `s` in the port alone. -/
theorem detach_ran {s z : State} {t : Index} (h : s.Ran z z t [] (s.rc t) []) (hacc : z.acc t = s.acc t) (x : LinkState) :
    (z.detach t x).mute = (z.detachedEntry t x).mute ∧
      s.tells (z.detach t x) t [.state t .detached (s.rc t).hold (s.rc t).lock none] ∧ s.answered (z.detach t x) (s.detachAnswers t) := by
  have hd := h.detach x
  have hanswers : z.detachAnswers t = s.detachAnswers t := by
    unfold detachAnswers
    rw [h.rc, hacc]
  refine ⟨?_, hd.tells, ?_⟩
  · rw [hd.mute, detachedEntry_eq_ran, hanswers, h.rc, hacc]
    rfl
  · have := hd.answered
    rwa [hacc] at this

/-- Settles O11: an attach and the end of one change the port alone, and a detach is the one of R23. -/
theorem presentAttachesAndDetaches : Obligations.PresentAttachesAndDetaches := by
  unfold Obligations.PresentAttachesAndDetaches
  refine ⟨fun s t hlow => ⟨fun hlink => ?_, fun hlink => ?_⟩, fun s t hhigh => ⟨fun hlink => ?_, fun hlink => ?_, fun hlink => ?_⟩⟩
  · refine congrArg Host.Outcome.next ?_
    unfold presentRises
    simp [hlow, hlink]
  · refine congrArg Host.Outcome.next ?_
    unfold presentRises
    simp only [hlow, hlink, Bool.false_eq_true, if_false, if_true]
    rw [attach_eq, modPort_modPort, demand_modPort, modPort_cfg]
    rfl
  all_goals
    have hfalls : s.presentFalls t = if (s.port t).link = .disabled then s.modPort t fun p => { p with present := false }
        else (s.modPort t fun p => { p with present := false }).loseTarget t .absent := by
      unfold presentFalls
      rw [if_pos hhigh]
  · exact congrArg Host.Outcome.next (hfalls.trans (if_pos hlink))
  · refine congrArg Host.Outcome.next ?_
    rw [hfalls]
    unfold loseTarget
    rcases hlink with hlink | hlink <;> simp [hlink, idlePort]
  · have hdetach : s.presentFalls t = (s.modPort t fun p => { p with present := false }).detach t .absent := by
      rw [hfalls]
      unfold loseTarget
      simp [hlink]
    refine ⟨s.presentFalls t, rfl, ?_⟩
    rw [hdetach]
    exact detach_ran ((Ran.refl s t).modPort _) (by simp) .absent

/-! ### The end of a target reset (R18, R190, R191) -/

theorem resetTimer_of_some {r : RunControl} {q : ResetRec} (hq : r.resetRec = some q) :
    { r with resetRec := none, resetTimer := if r.resetRec.isSome then none else r.resetTimer } =
      { r with resetRec := none, resetTimer := none } := by simp [hq]

/-- The end of a reset by its response. -/
theorem Ran.endReset_of_some {s z y : State} {t : Index} {rs : List Answer} {r : RunControl} {bs : List NoticeBody} {q : ResetRec}
    (h : s.Ran z y t rs r bs) (hq : r.resetRec = some q) (st : Status) (payload : List Byte) :
    s.Ran z (y.endReset t st payload) t (rs ++ resetAnswer q st payload) { r with resetRec := none, resetTimer := none } bs :=
  (h.endReset st payload).congr (by rw [hq]; rfl) (resetTimer_of_some hq) rfl

/-- An entry to HALTED after responses and a change of the Run Control Unit. -/
theorem haltedEntry_after (z : State) (t : Index) (rs : List Answer) (f : RunControl → RunControl) (hold : HoldSet) (c : HaltCause)
    (pc : Addr) : ((z.leaves rs).modRc t f).haltedEntry t hold c pc = (z.haltedPort t hold).ran t
      (rs ++ haltAnswers (f (z.rc t)) hold) (haltedRc (z.acc t) hold c pc (f (z.rc t))) := by
  rw [leaves_modRc_eq_ran, haltedEntry_ran]

theorem runEntry_after (z : State) (t : Index) (rs : List Answer) (f : RunControl → RunControl) :
    ((z.leaves rs).modRc t f).runEntry t = (z.runPort t (f (z.rc t))).ran t (rs ++ runAnswers (f (z.rc t))) (runRc (f (z.rc t))) := by
  rw [leaves_modRc_eq_ran, runEntry_ran]

/-- The halt cause that the end of a reset gives. -/
def resetCause (flag : Bool) : HaltCause := if flag then .resetHeld else .self

/-- The payload of a TRESET that a HALTED report ends. -/
def resetHaltPayload (flag : Bool) : List Byte := [3, if flag then 5 else 4, 0]

/-- The payload of a TRESET that a RUNNING report ends. -/
def resetRunPayload (r : RunControl) : List Byte := [if r.hold.isEmpty then 1 else 2, 0, 0]

theorem Ran.haltedInReset {s z y : State} {t : Index} {rs : List Answer} {r : RunControl} {bs : List NoticeBody} {q : ResetRec}
    (h : s.Ran z y t rs r bs) (hq : r.resetRec = some q) {flag : Bool} (hphase : q.phase = .released flag) (pc : Addr) :
    let hold := if flag then r.hold else r.hold.addSelf
    s.Ran (z.haltedPort t hold) (y.haltedInReset t pc) t (rs ++ (resetAnswer q .ok (resetHaltPayload flag) ++ haltAnswers r hold))
      (haltedRc (z.acc t) hold (resetCause flag) pc { r with resetRec := none, resetTimer := none })
      (bs ++ haltNotices t r (z.acc t) hold (resetCause flag) pc) := by
  have hpc := h.modRc fun r => { r with lastPc := pc }
  unfold State.haltedInReset
  rw [h.rc, hq]
  simp only [hphase]
  cases flag with
  | true => exact ((hpc.endReset_of_some hq _ _).enterHalted _).congr (List.append_assoc ..) rfl rfl
  | false =>
    exact (((hpc.modRc fun r => { r with hold := r.hold.addSelf }).endReset_of_some hq _ _).enterHalted _).congr
      (List.append_assoc ..) rfl rfl

theorem Ran.runningInReset {s z y : State} {t : Index} {rs : List Answer} {r : RunControl} {bs : List NoticeBody} {q : ResetRec}
    (h : s.Ran z y t rs r bs) (hq : r.resetRec = some q) {flag : Bool} (hphase : q.phase = .released flag) :
    s.Ran (z.runPort t r) (y.runningInReset t) t (rs ++ (resetAnswer q .ok (resetRunPayload r) ++ runAnswers r))
      (runRc { r with resetRec := none, resetTimer := none }) (bs ++ runNotices t r) := by
  have hpay : (if r.hold.isEmpty then RunState.running else .stopping).code :: haltCauseBytes none = resetRunPayload r := by
    unfold resetRunPayload
    split <;> rfl
  unfold State.runningInReset
  rw [h.rc, hq]
  simp only [hphase, hpay]
  exact ((h.endReset_of_some hq _ _).runOrStop).congr (List.append_assoc ..) rfl rfl

/-- A report while the reset hold time runs is discarded. -/
theorem takeReport_of_discarded {s : State} {t : Index} {answers : RcMsg → Bool} {f : Bool → State → State}
    (hdiscards : s.discardsReports t = true) (hlink : (s.port t).link = .active) (hout : s.outstandingMsg t = none) :
    s.takeReport t answers f = s := by
  rw [takeReport_eq, if_pos hdiscards, reportTaken_active s t hlink]
  simp [answersOutstanding, hout]

/-- Settles O54: the expiry hands RST_OFF, and the report that answers it ends the reset before the target is found halted or running. -/
theorem targetResetEnds : Obligations.TargetResetEnds := by
  unfold Obligations.TargetResetEnds
  refine ⟨fun s t q => ⟨fun hno => ?_, fun htimer hq => ?_⟩, fun s t flags check pc q flag hlink hrun hq =>
    ⟨fun hphase hout => ⟨fun hwf => ?_, fun hwf => ?_⟩, fun hphase hout => ⟨fun hwf => ?_, fun hwf => ?_⟩⟩⟩
  · refine congrArg Host.Outcome.next ?_
    unfold takeResetHold
    rw [hno]
    split
    · exact absurd ‹none = some _› (by simp)
    · rfl
  · obtain ⟨n, hn⟩ := Option.isSome_iff_exists.1 htimer
    refine congrArg Host.Outcome.next ?_
    unfold takeResetHold
    rw [hq, hn]
    simp only
    rw [handRc_eq]
    simp only [modRc_cfg]
    rfl
  · have hdiscards : s.discardsReports t = true := by simp [discardsReports, hrun, hq, hphase]
    rw [exec_haltedReport s t hwf (.inr hlink), takeReport_of_discarded hdiscards hlink hout]
  · have hdiscards : s.discardsReports t = true := by simp [discardsReports, hrun, hq, hphase]
    rw [exec_runningReport s t hwf (.inr hlink), takeReport_of_discarded hdiscards hlink hout]
  · have hkept : s.discardsReports t = false := by simp [discardsReports, hrun, hq, hphase]
    have htaken : s.reportTaken t RcMsg.answeredByHalted = s.clearOutstanding t := by
      rw [reportTaken_active s t hlink, answersOutstanding, hout]
      rfl
    have h1 := (reportTaken_ran s t RcMsg.answeredByHalted).haltedInReset hq hphase pc
    have hby : haltedByRun t (selfFlag flags) (stepFlag flags) ((s.port t).link == .probing) pc
        (s.reportTaken t RcMsg.answeredByHalted) = (s.reportTaken t RcMsg.answeredByHalted).haltedInReset t pc := by
      unfold State.haltedByRun
      rw [htaken, clearOutstanding_rc, hrun]
    simp only [← hby, List.nil_append] at h1
    obtain ⟨u, htake, hmute, htells, hanswered⟩ := Ran.taken (answers := RcMsg.answeredByHalted)
      (f := fun probing => State.haltedByRun t (selfFlag flags) (stepFlag flags) probing pc) h1 hkept
      (haltedRc_run_ne (r := { s.rc t with resetRec := none, resetTimer := none }) (by simp [hrun]) (by simp [hrun]))
    rw [htaken, clearOutstanding_acc] at hmute htells
    refine ⟨u, (exec_haltedReport s t hwf (.inr hlink)).trans (congrArg Host.Outcome.next htake), hmute.trans ?_, htells, hanswered⟩
    have hentry := (s.clearOutstanding t).haltedEntry_after t (resetAnswer q .ok (resetHaltPayload flag))
      (fun x => { x with resetRec := none, resetTimer := none }) (if flag then (s.rc t).hold else (s.rc t).hold.addSelf) (resetCause flag) pc
    rw [clearOutstanding_rc, clearOutstanding_acc] at hentry
    exact congrArg mute hentry.symm
  · have hkept : s.discardsReports t = false := by simp [discardsReports, hrun, hq, hphase]
    have htaken : s.reportTaken t RcMsg.answeredByRunning = s.clearOutstanding t := by
      rw [reportTaken_active s t hlink, answersOutstanding, hout]
      rfl
    have h1 := (reportTaken_ran s t RcMsg.answeredByRunning).runningInReset hq hphase
    have hby : runningByRun t ((s.port t).link == .probing) (s.reportTaken t RcMsg.answeredByRunning) =
        (s.reportTaken t RcMsg.answeredByRunning).runningInReset t := by
      unfold State.runningByRun
      rw [htaken, clearOutstanding_rc, hrun]
    simp only [← hby, List.nil_append] at h1
    obtain ⟨u, htake, hmute, htells, hanswered⟩ := Ran.taken (answers := RcMsg.answeredByRunning)
      (f := fun probing => State.runningByRun t probing) h1 hkept (runRc_run_ne (by simp [hrun]))
    rw [htaken] at hmute
    refine ⟨u, (exec_runningReport s t hwf (.inr hlink)).trans (congrArg Host.Outcome.next htake), hmute.trans ?_, htells, hanswered⟩
    have hentry := (s.clearOutstanding t).runEntry_after t (resetAnswer q .ok (resetRunPayload (s.rc t)))
      (fun x => { x with resetRec := none, resetTimer := none })
    rw [clearOutstanding_rc] at hentry
    exact congrArg mute hentry.symm

end Sys2Proof.Machine.State
end

section
/-! PROOF. Reports within a step sequence and at its end (R30, R31, R32, R35, R36). -/

namespace Sys2Proof.Machine

/-- The hold set is exactly {Sn}: Sn is a member, and nobody else. -/
theorem HoldSet.isOnly_iff (h : HoldSet) (n : Index) :
    h.isOnly n = true ↔ h.has n = true ∧ h.hasOther n = false ∧ h.self = false := by
  have hall : ∀ (a b c d self : Bool) (n : Index), (⟨⟨a, b, c, d⟩, self⟩ : HoldSet).isOnly n = true ↔
      (⟨⟨a, b, c, d⟩, self⟩ : HoldSet).has n = true ∧ (⟨⟨a, b, c, d⟩, self⟩ : HoldSet).hasOther n = false ∧ self = false := by
    decide
  exact hall h.members.q0 h.members.q1 h.members.q2 h.members.q3 h.self n

namespace State

variable {s z y : State} {t : Index} {rs : List Answer} {r : RunControl} {bs : List NoticeBody} {q : StepSeq}

/-- The end of a sequence by its response, whose interrupted field the model changes first. -/
theorem Ran.respondStep (h : s.Ran z y t rs r bs) (hq : r.stepSeq = some q) {q' : StepSeq}
    (hsame : q'.session = q.session ∧ q'.tag = q.tag ∧ q'.discard = q.discard ∧ q'.done = q.done) (st : Status) :
    s.Ran z ((y.respondStep t q' st).modRc t fun r => { r with stepSeq := none }) t (rs ++ seqAnswer r q st) { r with stepSeq := none } bs := by
  rw [Orderly.respondStep_eq (by rw [h.rc]; exact hq) hsame]
  exact (h.failSeq st).congr (by rw [hq]; rfl) rfl rfl

/-- The halt cause of a sequence that ends (R35). -/
def seqCause (q : StepSeq) (own : Bool) : HaltCause := match q.brk with | some h => .brk h | none => if own then .self else .stepEnd

theorem Ran.endSeq (h : s.Ran z y t rs r bs) (hq : r.stepSeq = some q) (own : Bool) :
    s.Ran (z.haltedPort t r.hold) (y.endSeq t own) t (rs ++ (seqAnswer r q (seqStatus r q) ++ haltAnswers r r.hold))
      (haltedRc (z.acc t) r.hold (seqCause q own) r.lastPc { r with stepSeq := none })
      (bs ++ haltNotices t r (z.acc t) r.hold (seqCause q own) r.lastPc) := by
  have h1 := (h.respondStep hq ⟨rfl, rfl, rfl, rfl⟩ (seqStatus r q)).enterHalted (seqCause q own)
  unfold State.endSeq
  rw [h.rc, hq]
  exact h1.congr (List.append_assoc ..) rfl rfl

/-- The status of a sequence that a RUNNING report ends. -/
def cutStatus (r : RunControl) (q : StepSeq) : Status := if q.aborted ∨ ¬ r.hold.has q.session then .aborted else .interrupted

theorem Ran.runningInStepping (h : s.Ran z y t rs r bs) (hq : r.stepSeq = some q) (hqo : q.outstanding = false) :
    s.Ran (z.runPort t r) (y.runningInStepping t) t (rs ++ (seqAnswer r q (cutStatus r q) ++ runAnswers r))
      (runRc { r with stepSeq := none }) (bs ++ runNotices t r) := by
  have hst : seqStatus r { q with interrupted := true } = cutStatus r q := by simp [seqStatus, cutStatus]
  have h1 := (h.respondStep (q' := { q with interrupted := true }) hq ⟨rfl, rfl, rfl, rfl⟩ (cutStatus r q)).runOrStop
  unfold State.runningInStepping
  rw [h.rc, hq]
  dsimp only
  rw [if_neg (by simp [hqo]), hst]
  exact h1.congr (List.append_assoc ..) rfl rfl

/-- A STEP handed replaces the outstanding message. -/
theorem sendStep_clearOutstanding (s : State) (t : Index) (f : RunControl → RunControl) :
    ((s.clearOutstanding t).modRc t f).sendStep t =
      (s.modRc t fun r => { f r with stepSeq := (f r).stepSeq.map fun q => { q with outstanding := true } }).handRc t .step := by
  unfold sendStep modSeq clearOutstanding
  simp only [handRc_eq, ← modRc_modPort, modPort_modPort, modRc_modRc, modRc_cfg, modPort_cfg]

/-- Settles O13: the count rises and the next STEP is handed; a report out of turn changes at most the last pc; a target found running
ends the sequence. -/
theorem reportsWithinSequence : Obligations.ReportsWithinSequence := by
  unfold Obligations.ReportsWithinSequence
  refine ⟨fun s t flags check pc q hwf hlink howed hout hrun hq hqo hself hstep hcount hint hab hbrk honly hlock => ?_,
    fun s t flags check pc q hlink howed hrun hq => ⟨fun hwf hqo hout => ?_, fun hwf hqo hout => ?_, fun hwf hqo hout => ?_⟩⟩
  · have htaken : s.reportTaken t RcMsg.answeredByHalted = s.clearOutstanding t :=
      reportTaken_of_answered s t hlink (by simp [answersOutstanding, hout, RcMsg.answeredByHalted])
    have hby : haltedByRun t (selfFlag flags) (stepFlag flags) false pc (s.clearOutstanding t) =
        (s.modRc t fun r => { r with lastPc := pc, stepSeq := some { q with done := q.done + 1 } }).handRc t .step := by
      rw [haltedByRun, clearOutstanding_rc, hrun]
      simp only [hself, hstep]
      rw [haltedInStepping, clearOutstanding_rc, hq]
      have hlock' : (s.rc t).lockedAgainst q.session = false := by
        unfold RunControl.lockedAgainst
        rcases hlock with hl | hl <;> simp [hl]
      have hab' : q.aborted = false := by simpa using hab
      have hint' : q.interrupted = false := by simpa using hint
      have hlocked (r : RunControl) (hr : r.lock = (s.rc t).lock) : r.lockedAgainst q.session = false := by
        unfold RunControl.lockedAgainst at hlock' ⊢
        rwa [hr]
      simp only [hqo, setPc, hint', hab', hbrk, Bool.not_true, Bool.false_eq_true, if_false, if_true, Bool.or_false, modRc_modRc,
        modRc_rc_self, clearOutstanding_rc, seqContinues, decide_eq_true hcount, Option.isNone_none, honly, Bool.not_false, Bool.and_true,
        hlocked]
      rw [sendStep_clearOutstanding]
      exact congrArg (handRc t .step) (modRc_congr s t (by simp))
    rw [exec_haltedReport s t hwf (.inr hlink), takeReport_of_run_eq s t (discardsReports_of_run s t (by simp [hrun])) hlink howed
      (by simp [hout]) (by rw [htaken, hby]; simp), htaken, hby]
  · have hby : haltedByRun t (selfFlag flags) (stepFlag flags) false pc s = s.setPc t pc := by
      rw [haltedByRun, hrun]
      simp only
      rw [haltedInStepping, hq]
      simp [hqo]
    have htaken : s.reportTaken t RcMsg.answeredByHalted = s := reportTaken_of_unanswered s t hlink (by simp [answersOutstanding, hout])
    rw [exec_haltedReport s t hwf (.inr hlink), takeReport_of_run_eq s t (discardsReports_of_run s t (by simp [hrun])) hlink howed
      (by simp [hout]) (by rw [htaken, hby]; simp [setPc]), htaken, hby]
    rfl
  · have hby : runningByRun t false s = s := by
      rw [runningByRun, hrun]
      simp only
      rw [runningInStepping, hq]
      simp [hqo]
    have htaken : s.reportTaken t RcMsg.answeredByRunning = s :=
      reportTaken_of_unanswered s t hlink (by simp [answersOutstanding, hout, RcMsg.answeredByRunning])
    rw [exec_runningReport s t hwf (.inr hlink), takeReport_of_run_eq s t (discardsReports_of_run s t (by simp [hrun])) hlink howed
      (by simp [hout]) (by rw [htaken, hby]), htaken, hby]
  · have hq' : q.outstanding = false := by simpa using hqo
    have h1 := (reportTaken_ran s t RcMsg.answeredByRunning).runningInStepping hq hq'
    have htaken : s.reportTaken t RcMsg.answeredByRunning = s := reportTaken_of_unanswered s t hlink (by simp [answersOutstanding, hout])
    have hby (x : State) (hx : (x.rc t).run = .stepping) : runningByRun t ((s.port t).link == .probing) x = x.runningInStepping t := by
      rw [runningByRun, hx]
    simp only [← hby _ ((congrArg (fun x : State => (x.rc t).run) htaken).trans hrun), List.nil_append] at h1
    obtain ⟨u, htake, hmute, htells, hanswered⟩ := Ran.taken (answers := RcMsg.answeredByRunning)
      (f := fun probing => State.runningByRun t probing) h1 (discardsReports_of_run s t (by simp [hrun])) (runRc_run_ne (by simp [hrun]))
    rw [htaken] at hmute
    exact ⟨u, (exec_runningReport s t hwf (.inr hlink)).trans (congrArg Host.Outcome.next htake),
      hmute.trans (congrArg mute (s.runEntry_after t _ fun x => { x with stepSeq := none }).symm), htells, hanswered⟩

/-- The record of a sequence after a step report. -/
def reportedSeq (q : StepSeq) (step own : Bool) : StepSeq :=
  { q with outstanding := false, done := if step then q.done + 1 else q.done, interrupted := q.interrupted || own }

/-- The Run Control Unit after a step report was taken, before the sequence continues or ends. -/
def steppedRc (q : StepSeq) (step own : Bool) (pc : Addr) (r : RunControl) : RunControl :=
  { r with lastPc := pc, hold := if own then r.hold.addSelf else r.hold, stepSeq := some (reportedSeq q step own) }

/-- The state after a step report was taken, before the sequence continues or ends. -/
def stepped (t : Index) (q : StepSeq) (step own : Bool) (pc : Addr) (y : State) : State :=
  let y1 := (y.setPc t pc).modRc t fun r => { r with stepSeq := some (reportedSeq q step own) }
  if own then y1.selfJoins t else y1

theorem haltedInStepping_eq (hq : (y.rc t).stepSeq = some q) (hqo : q.outstanding = true) (self step : Bool) (pc : Addr) :
    y.haltedInStepping t self step pc =
      if seqContinues ((y.stepped t q step (self || !step) pc).rc t) (reportedSeq q step (self || !step)) self step then
        (y.stepped t q step (self || !step) pc).sendStep t
      else (y.stepped t q step (self || !step) pc).endSeq t (self || !step) := by
  unfold haltedInStepping
  rw [hq]
  dsimp only
  rw [if_neg (by simp [hqo])]
  rfl

theorem Ran.stepped (h : s.Ran z y t rs r bs) (q : StepSeq) (step own : Bool) (pc : Addr) :
    s.Ran z (y.stepped t q step own pc) t rs (steppedRc q step own pc r) bs := by
  have h1 := (h.modRc fun r => { r with lastPc := pc }).modRc fun r => { r with stepSeq := some (reportedSeq q step own) }
  cases own with
  | false => exact h1
  | true => exact h1.modRc fun r => { r with hold := r.hold.addSelf }

theorem seqContinues_stepped {self step : Bool} (q' : StepSeq) (pc : Addr) (hends : seqContinues r q' self step = false) :
    seqContinues (steppedRc q step (self || !step) pc r) q' self step = false := by
  cases hown : self || !step with
  | false => exact hends
  | true =>
    have hneither : (!self && step) = false := by
      revert hown
      cases self <;> cases step <;> simp
    unfold seqContinues
    rw [hneither]
    rfl

/-- A step report after which the sequence does not continue. -/
theorem Ran.haltedInStepping (h : s.Ran z y t rs r bs) (hq : r.stepSeq = some q) (hqo : q.outstanding = true) (self step : Bool) (pc : Addr)
    (hends : seqContinues r (reportedSeq q step (self || !step)) self step = false) :
    let r1 := steppedRc q step (self || !step) pc r
    let q1 := reportedSeq q step (self || !step)
    s.Ran (z.haltedPort t r1.hold) (y.haltedInStepping t self step pc) t
      (rs ++ (seqAnswer r1 q1 (seqStatus r1 q1) ++ haltAnswers r1 r1.hold))
      (haltedRc (z.acc t) r1.hold (seqCause q (self || !step)) pc { r1 with stepSeq := none })
      (bs ++ haltNotices t r1 (z.acc t) r1.hold (seqCause q (self || !step)) pc) := by
  have h1 := h.stepped q step (self || !step) pc
  rw [haltedInStepping_eq (by rw [h.rc]; exact hq) hqo, h1.rc, seqContinues_stepped _ pc hends]
  exact h1.endSeq rfl _

/-- The status of a sequence that a step report ends, as R35's table gives it. -/
theorem seqStatus_stepped (q : StepSeq) (step own : Bool) (pc : Addr) (r : RunControl) :
    let hold := if own then r.hold.addSelf else r.hold
    seqStatus (steppedRc q step own pc r) (reportedSeq q step own) =
      if q.aborted ∨ ¬ hold.has q.session then .aborted
      else if q.interrupted ∨ own ∨ q.brk ≠ none ∨ hold.hasOther q.session ∨ r.lockedAgainst q.session ∨ hold.self then .interrupted
      else .ok := by
  show seqStatus { r with lastPc := pc, hold := if own then r.hold.addSelf else r.hold, stepSeq := some (reportedSeq q step own) } _ = _
  generalize (if own = true then r.hold.addSelf else r.hold) = hold
  have honly := HoldSet.isOnly_iff hold q.session
  by_cases hab : q.aborted = true ∨ ¬ hold.has q.session = true
  · rw [if_pos hab]
    exact if_pos (by simpa [reportedSeq] using hab)
  · rw [if_neg hab]
    refine (if_neg (by simpa [reportedSeq] using hab)).trans (if_congr ?_ rfl rfl)
    have hhas : hold.has q.session = true := not_not.1 (not_or.1 hab).2
    have hnot : (!hold.isOnly q.session) = true ↔ hold.hasOther q.session = true ∨ hold.self = true := by
      rw [Bool.not_eq_true', ← Bool.not_eq_true, honly, hhas]
      cases hold.hasOther q.session <;> cases hold.self <;> simp
    simp only [reportedSeq, Bool.or_eq_true, hnot, Option.isSome_iff_ne_none]
    tauto

/-- Settles O14: the report is taken, the sequence does not continue, and it ends in HALTED. -/
theorem stepReportEndsSequence : Obligations.StepReportEndsSequence := by
  unfold Obligations.StepReportEndsSequence
  intro s t flags check pc q hwf hlink hout hrun hq hqo hends
  have htaken : s.reportTaken t RcMsg.answeredByHalted = s.clearOutstanding t :=
    reportTaken_of_answered s t hlink (by simp [answersOutstanding, hout, RcMsg.answeredByHalted])
  have hstop : seqContinues (s.rc t) (reportedSeq q (stepFlag flags) (selfFlag flags || !stepFlag flags)) (selfFlag flags) (stepFlag flags) =
      false := by
    rw [← Bool.not_eq_true]
    intro hgo
    refine hends ?_
    simp only [seqContinues, reportedSeq, Bool.and_eq_true, Bool.not_eq_true', Bool.or_eq_false_iff] at hgo
    obtain ⟨⟨⟨⟨⟨⟨⟨hself, hstep⟩, hcount⟩, hint⟩, hab⟩, hbrk⟩, honly⟩, hlock⟩ := hgo
    have hlt := of_decide_eq_true hcount
    rw [if_pos hstep] at hlt
    refine ⟨hself, hstep, hlt, hint.1, hab, Option.isNone_iff_eq_none.1 hbrk, honly, ?_⟩
    cases hl : (s.rc t).lock with
    | none => exact .inl rfl
    | some o =>
      rw [RunControl.lockedAgainst, hl] at hlock
      exact .inr (congrArg some (by simpa using hlock))
  have h1 := (reportTaken_ran s t RcMsg.answeredByHalted).haltedInStepping hq hqo (selfFlag flags) (stepFlag flags) pc hstop
  have hby : haltedByRun t (selfFlag flags) (stepFlag flags) ((s.port t).link == .probing) pc (s.reportTaken t RcMsg.answeredByHalted) =
      (s.reportTaken t RcMsg.answeredByHalted).haltedInStepping t (selfFlag flags) (stepFlag flags) pc := by
    rw [haltedByRun, htaken, clearOutstanding_rc, hrun]
  simp only [← hby, List.nil_append, seqStatus_stepped] at h1
  obtain ⟨u, htake, hmute, htells, hanswered⟩ := Ran.taken (answers := RcMsg.answeredByHalted)
    (f := fun probing => State.haltedByRun t (selfFlag flags) (stepFlag flags) probing pc) h1
    (discardsReports_of_run s t (by simp [hrun])) (haltedRc_run_ne (by simp [steppedRc, hrun]) (by simp [steppedRc, hrun]))
  rw [htaken, clearOutstanding_acc] at hmute htells
  refine ⟨u, (exec_haltedReport s t hwf (.inr hlink)).trans (congrArg Host.Outcome.next htake), hmute.trans ?_, htells, hanswered⟩
  rw [haltedEntry_after, clearOutstanding_rc, clearOutstanding_acc]
  rfl

end State

end Sys2Proof.Machine
end

section
/-! PROOF. The Access Engine (chapter 4): the examination of the head, the end of an access and its report, and the access timers. -/

namespace Sys2Proof.Machine.State

/-! ### Accesses in normal form -/

section

variable {s z y : State} {t : Index} {rs : List Answer} {r : RunControl} {bs : List NoticeBody}

/-- The Access Engine after the end of its IN_FLIGHT access. -/
def endedAcc (r : RunControl) (a : AccessEngine) : AccessEngine :=
  { queue := a.queue.tail, exchange := none, batch := if r.run = .service then a.batch + 1 else a.batch }

theorem Ran.endAccess (h : s.Ran z y t rs r bs) {e : AccEntry} {rest : List AccEntry} (hq : (z.acc t).queue = e :: rest) (st : Status)
    (payload : List Byte) :
    s.Ran (z.modAcc t (endedAcc r)) (y.endAccess t st payload) t (rs ++ accessAnswer e st payload) r bs := by
  have d := y.endAccess_does t (by rw [h.acc]; exact hq) st payload
  unfold accessEnded at d
  rw [h.rc] at d
  exact h.access d

theorem modRc_fixed (z : State) (t : Index) {f : RunControl → RunControl} (h : f (z.rc t) = z.rc t) : z.modRc t f = z := by
  refine (modRc_congr z t (g := fun r => r) h).trans ?_
  simp [modRc, modTarget]

theorem modAcc_fixed (z : State) (t : Index) {g : AccessEngine → AccessEngine} (h : g (z.acc t) = z.acc t) : z.modAcc t g = z := by
  refine (modAcc_congr z t (g := fun a => a) h).trans ?_
  simp [modAcc, modTarget]

theorem leaves_modAcc_eq_ran (z : State) (t : Index) (rs : List Answer) (g : AccessEngine → AccessEngine) :
    (z.leaves rs).modAcc t g = (z.modAcc t g).ran t rs (z.rc t) := by
  have h := leaves_modRc_eq_ran (z.modAcc t g) t rs id
  rw [modAcc_rc, id] at h
  rw [← h, ← leaves_modAcc, modRc_fixed _ t rfl]

theorem accessEnded_eq_ran (z : State) (t : Index) (e : AccEntry) (st : Status) (payload : List Byte) :
    z.accessEnded t e st payload = (z.modAcc t (endedAcc (z.rc t))).ran t (accessAnswer e st payload) (z.rc t) :=
  leaves_modAcc_eq_ran z t _ _

/-- The answer to the head entry, where there is one. -/
def headAnswer (a : AccessEngine) (st : Status) : List Answer := match a.queue with | e :: _ => accessAnswer e st [] | [] => []

theorem Ran.failHead_tail (h : s.Ran z y t rs r bs) (st : Status) :
    s.Ran (z.modAcc t fun a => { a with queue := a.queue.tail }) (y.failHead t st) t (rs ++ headAnswer (z.acc t) st) r bs := by
  unfold headAnswer
  cases hq : (z.acc t).queue with
  | nil =>
    rw [modAcc_fixed z t (by rw [hq, List.tail_nil, ← hq]), failHead_of_empty _ _ (by rw [h.acc]; exact hq), List.append_nil]
    exact h
  | cons e rest =>
    rw [modAcc_congr z t (g := fun a => { a with queue := rest }) (by simp [hq])]
    exact h.failHead hq st

end

/-! ### The examination of the head (Table 4-3, R72, R73) -/

section

variable {s : State} {t : Index} {r : RunControl} {a : AccessEngine} {e : AccEntry} {rest : List AccEntry}

theorem verdict_of_inFlight (i : Bool) (h : a.inFlight = true) : verdict r a i = .wait := by
  unfold verdict
  rw [if_pos h]

theorem verdict_of_empty (i : Bool) (h : a.queue = []) (hrun : r.run ≠ .service) : verdict r a i = .wait := by
  have hfly : a.inFlight = false := by simp [AccessEngine.inFlight, h]
  unfold verdict
  rw [if_neg (by simp [hfly]), h]
  cases hr : r.run with
  | service => exact absurd hr hrun
  | _ => rfl

/-- Table 4-3 for a head that is not in flight, SERVICE apart. -/
theorem verdict_of_head (i : Bool) (h : a.queue = e :: rest) (hfly : e.inFlight = false) (hrun : r.run ≠ .service) : verdict r a i =
    match headFails r i e with
    | some st => .fail st
    | none => if r.run = .halted then .start else if r.run = .running then .beginService else .wait := by
  have hidle : a.inFlight = false := by simp [AccessEngine.inFlight, h, hfly]
  unfold verdict headFails
  rw [if_neg (by simp [hidle]), h]
  cases hr : r.run with
  | service => exact absurd hr hrun
  | halted =>
    show (if e.isWrite && r.lockedAgainst e.session then Verdict.fail .locked
        else if e.isWrite && !r.hold.has e.session then .fail .notHeld else .start) =
      match (if e.isWrite && r.lockedAgainst e.session then some Status.locked
        else if e.isWrite && !r.hold.has e.session then some .notHeld else none) with
      | some st => .fail st
      | none => .start
    cases e.isWrite && r.lockedAgainst e.session <;> cases e.isWrite && !r.hold.has e.session <;> rfl
  | running =>
    show (if e.isWrite && r.lockedAgainst e.session then Verdict.fail .locked else if !i then .fail .notHalted else .beginService) =
      match (if e.isWrite && r.lockedAgainst e.session then some Status.locked else if i then none else some .notHalted) with
      | some st => .fail st
      | none => .beginService
    cases e.isWrite && r.lockedAgainst e.session <;> cases i <;> rfl
  | _ => rfl

/-- Settles O25: one round of the examination, by its verdict. -/
theorem examinationTreatsHead : Obligations.ExaminationTreatsHead := by
  unfold Obligations.ExaminationTreatsHead
  intro s t e rest
  refine ⟨fun hfly => examine_of_wait s t (verdict_of_inFlight _ hfly), fun hempty hrun => examine_of_wait s t (verdict_of_empty _ hempty hrun),
    fun hq hfly hrun => ?_⟩
  have hround := s.examine_round t
  rw [verdict_of_head _ hq (by simpa using hfly) hrun] at hround
  refine ⟨fun hr => ?_, fun st hst => ?_, fun hr hno => ?_, fun hr hno => ?_⟩
  · refine examine_of_wait s t ?_
    rw [verdict_of_head _ hq (by simpa using hfly) hrun]
    simp only [List.mem_cons, List.not_mem_nil, or_false] at hr
    rcases hr with hr | hr | hr | hr | hr <;> simp [headFails, hr]
  · rw [Option.mem_def.1 hst] at hround
    have h := (Ran.refl s t).failHead hq st
    exact ⟨s.failHead t st, hround, h.mute.trans (congrArg mute (leaves_modAcc_eq_ran s t _ _).symm), h.tells, h.answered⟩
  · rw [hno] at hround
    simp only [hr, if_true] at hround
    rw [hround, startHead_eq s t hq]
  · rw [hno] at hround
    simp only [hr, reduceCtorEq, if_false, if_true] at hround
    have h := ((Ran.refl s t).handRc .svcReq).setRun .svcPending
    rw [hround]
    exact ⟨h.mute.trans (congrArg mute (by rw [modRc_eq_ran, handRc_ran])), h.tells, h.answered⟩

/-- Settles O26: the four checks of R86 decide the verdict, and the round follows it. -/
theorem serviceExamination : Obligations.ServiceExamination := by
  unfold Obligations.ServiceExamination
  intro s t e rest hrun hfly
  have hround := s.examine_round t
  have hverdict : verdict (s.rc t) (s.acc t) (s.cfg t).intrusive = verdictService (s.rc t) (s.acc t) := by
    unfold verdict
    rw [if_neg hfly, hrun]
  rw [hverdict] at hround
  refine ⟨fun hheld => ?_, fun hfree hleave => ?_, fun hfree hbatch hserve hq => ?_⟩
  · have hexit : verdictService (s.rc t) (s.acc t) = .exitHold := if_pos (by simpa using hheld)
    rw [hexit] at hround
    have h := ((Ran.refl s t).handRc .svcExitHold).setRun .stopping
    rw [hround]
    exact ⟨h.mute.trans (congrArg mute (by rw [modRc_eq_ran, handRc_ran])), h.tells, h.answered⟩
  · have hexit : verdictService (s.rc t) (s.acc t) = .exitResume := by
      unfold verdictService
      rw [if_neg (by simp [hfree])]
      split
      · rfl
      · rename_i hbatch
        have hnot := hleave.resolve_left hbatch
        cases hq : (s.acc t).queue with
        | nil => rfl
        | cons x xs =>
          rw [hq] at hnot
          exact if_pos (by simpa using hnot)
    rw [hexit] at hround
    have h := ((Ran.refl s t).hand (m := .svcExit false) (by simp)).enterRunning
    have hanswers : kindAnswers (s.rc t) .resume (s.rc t).hold = runAnswers (s.rc t) := (if_pos hfree).symm
    rw [hanswers] at h
    refine ⟨s.exitResume t, hround, h.mute.trans (congrArg mute ?_), h.tells, h.answered⟩
    rw [leaves_modRc_eq_ran, hand_eq _ _ (by simp), modPort_rc]
    rfl
  · have hstart : verdictService (s.rc t) (s.acc t) = .start := by
      unfold verdictService
      rw [if_neg (by simp [hfree]), if_neg (show ¬ (s.acc t).batch = Config.maxBatch from hbatch)]
      rw [hq] at hserve ⊢
      simp only [List.head?_cons, Option.any_some, Bool.not_eq_true'] at hserve
      exact if_neg (by rw [hserve]; simp)
    rw [hstart] at hround
    rw [hround, startHead_eq s t hq]

end

/-! ### Replies (R76 to R79) -/

theorem stillHalted_iff (s : State) (t : Index) : s.stillHalted t = true ↔
    (s.rc t).run = .halted ∨ (s.rc t).run = .service ∨ (s.rc t).run = .stepping ∧ ∃ q ∈ (s.rc t).stepSeq, q.outstanding = false := by
  unfold stillHalted
  cases hr : (s.rc t).run with
  | stepping =>
    cases hq : (s.rc t).stepSeq with
    | none => simp
    | some q => simp
  | _ => simp

/-- The end of the access at the head, whose entry the reply may have changed. -/
theorem endAccess_setHead {s : State} {t : Index} {e : AccEntry} {rest : List AccEntry} (hq : (s.acc t).queue = e :: rest) (e' : AccEntry)
    (st : Status) (payload : List Byte) :
    let u := (s.setHead t e').endAccess t st payload
    u.mute = (s.accessEnded t e' st payload).mute ∧ s.tells u t [] ∧ s.answered u (accessAnswer e' st payload) := by
  have h := ((Ran.refl s t).modAcc fun a => { a with queue := e' :: a.queue.tail }).endAccess (e := e') (rest := rest)
    (by simp [hq]) st payload
  refine ⟨h.mute.trans ?_, h.tells, h.answered⟩
  rw [accessEnded_eq_ran, modAcc_modAcc]
  rfl

theorem setHead_self {s : State} {t : Index} {e : AccEntry} {rest : List AccEntry} (hq : (s.acc t).queue = e :: rest) : s.setHead t e = s :=
  modAcc_fixed s t (by rw [hq, List.tail_cons, ← hq])

/-- An ACC handed for the head, which stays in flight. -/
theorem handAcc_setHead (s : State) (t : Index) {e : AccEntry} (hfly : e.inFlight = true) (op : AccOp) (ph : Phase) :
    (s.setHead t e).handAcc t op ph e = s.accHanded t e op ph := by
  obtain ⟨session, tag, op', space, location, inFlight, written, discard⟩ := e
  subst hfly
  unfold setHead handAcc accHanded
  rw [hand_eq _ _ (by simp)]
  simp only [modAcc_port, modAcc_cfg, modPort_modPort, modAcc_modAcc, ← modAcc_modPort]

/-- Settles O28: the phase and the result decide what the reply does, and an end is one of R79. -/
theorem replyEndsExchangeByPhase : Obligations.ReplyEndsExchangeByPhase := by
  unfold Obligations.ReplyEndsExchangeByPhase
  intro s t number result check data e rest x hwf hlink hx hnumber hq hfly hphase
  have htake : exec (.accReply t number result data check) s = .next (s.replyByPhase t e x.phase (result == 0) data) := by
    refine congrArg Host.Outcome.next ((arrives_of_wellFormed s rfl hwf _).trans ?_)
    unfold takeReply
    rw [if_pos hlink, hx, hq]
    exact if_pos hnumber
  have hended (e' : AccEntry) (st : Status) (payload : List Byte)
      (h : s.replyByPhase t e x.phase (result == 0) data = (s.setHead t e').endByReply t st payload) :
      ∃ u : State, exec (.accReply t number result data check) s = .next ((u.accessReport t).examine t) ∧
        u.mute = (s.accessEnded t e' st payload).mute ∧ s.tells u t [] ∧ s.answered u (accessAnswer e' st payload) :=
    ⟨_, htake.trans (congrArg Host.Outcome.next h), endAccess_setHead hq e' st payload⟩
  refine ⟨fun hres => hended e _ _ ?_, fun hres hph => hended e _ _ ?_, fun hres hph => hended e _ _ ?_, fun hres hph =>
    ⟨fun hstill => ?_, fun hnot => hended _ _ _ ?_⟩⟩
  · rw [setHead_self hq, hres]
    cases x.phase <;> rfl
  · rw [setHead_self hq, hres, hph]
    rfl
  · rw [setHead_self hq, hres, hph]
    rfl
  · rw [htake, hres, hph]
    have h := (stillHalted_iff s t).2 hstill
    simp only [replyByPhase]
    rw [if_pos (by rfl), if_pos h, handAcc_setHead s t (e := { e with written := true }) hfly]
  · have h := mt (stillHalted_iff s t).1 hnot
    rw [hres, hph]
    simp only [replyByPhase]
    rw [if_pos (by rfl), if_neg h]

/-- Settles O29: the deferred release comes first, then the sequence that waits for its first STEP. -/
theorem accessEndReleasesOrSteps : Obligations.AccessEndReleasesOrSteps := by
  unfold Obligations.AccessEndReleasesOrSteps
  intro s t q hidle
  have hidle' : (s.acc t).inFlight = false := by simpa using hidle
  refine ⟨fun hdefer hfree => ?_, fun hdefer hheld => ?_, fun hdefer hrun hq hqo => ⟨fun hint hab honly => ?_, fun hends => ?_⟩,
    fun hdefer hnone => ?_⟩
  · have hu : s.accessReport t = (s.modRc t fun x => { x with relDefer := false }).release t := by
      unfold accessReport
      simp only [hdefer, hfree, if_true]
    have h := ((Ran.refl s t).modRc fun x => { x with relDefer := false }).release hidle'
    rw [hu]
    exact ⟨h.mute.trans (congrArg mute (by rw [modRc_eq_ran, handRc_ran])), h.tells, h.answered⟩
  · have hu : s.accessReport t = (s.modRc t fun x => { x with relDefer := false }).answerResumes t := by
      unfold accessReport
      simp only [hdefer, if_true]
      exact if_neg hheld
    have h := ((Ran.refl s t).modRc fun x => { x with relDefer := false }).answerWaiters (fun w => w.kind == .resume) .ok
    rw [hu]
    exact ⟨h.mute.trans (congrArg mute (by rw [leaves_modRc_eq_ran]; rfl)), h.tells, h.answered⟩
  all_goals have hdefer' : (s.rc t).relDefer = false := by simpa using hdefer
  · have hint' : q.interrupted = false := by simpa using hint
    have hab' : q.aborted = false := by simpa using hab
    have hqo' : q.outstanding = false := by simpa using hqo
    have hu : s.accessReport t = s.sendStep t := by
      simp [accessReport, hdefer', hrun, hq, hqo', hint', hab', honly]
    rw [hu]
    unfold sendStep modSeq
    rw [← modRc_handRc]
    exact congrArg (handRc t .step) (modRc_congr s t (by simp [hq]))
  · have hqo' : q.outstanding = false := by simpa using hqo
    have hu : s.accessReport t = s.endSeq t false := by
      have hnot : (!q.interrupted && !q.aborted && (s.rc t).hold.isOnly q.session) = false := by
        rw [← Bool.not_eq_true]
        intro hgo
        simp only [Bool.and_eq_true, Bool.not_eq_true'] at hgo
        obtain ⟨⟨hi, ha⟩, ho⟩ := hgo
        simp [hi, ha, ho] at hends
      simp [accessReport, hdefer', hrun, hq, hqo', hnot]
    have hst : seqStatus (s.rc t) q = cutStatus (s.rc t) q := by
      unfold seqStatus cutStatus
      by_cases hab : q.aborted = true ∨ ¬ (s.rc t).hold.has q.session = true
      · rw [if_pos hab, if_pos (by simpa using hab)]
      · have hcut : (q.interrupted || q.brk.isSome || !(s.rc t).hold.isOnly q.session || (s.rc t).lockedAgainst q.session) = true := by
          rcases hends with h | h | h
          · simp [h]
          · exact absurd (Or.inl h) hab
          · simp [h]
        rw [if_neg hab, if_neg (by simpa using hab), if_pos hcut]
    have h := (Ran.refl s t).endSeq hq false
    rw [hst] at h
    rw [hu]
    refine ⟨h.mute.trans (congrArg mute ?_), h.tells, h.answered⟩
    rw [haltedEntry_after]
    rfl
  · have hu : s.accessReport t = s := by
      unfold accessReport
      simp only [hdefer', Bool.false_eq_true, if_false]
      split
      · rename_i q' hrun hq'
        exact if_pos (hnone hrun q' (by simp [hq']))
      · rfl
    exact hu

/-! ### Access timers (R80, R89) -/

/-- Settles O30: the access ends or the head fails, and what follows enters UNRESPONSIVE or RUNNING. -/
theorem accessTimeouts : Obligations.AccessTimeouts := by
  unfold Obligations.AccessTimeouts
  refine ⟨fun s t e rest hx hq hfly => ?_, fun s t hrun hreq => ?_⟩
  · have h := (Ran.refl s t).endAccess hq .timeout []
    have hentry := accessEnded_eq_ran s t e .timeout []
    have htake : exec (.exchangeTimerExpiry t) s =
        .next ((if s.stillHalted t then (s.endAccess t .timeout []).enterUnresponsive t else s.endAccess t .timeout []).examine t) := by
      refine congrArg Host.Outcome.next ?_
      unfold takeExchangeTimeout
      rw [if_pos hx]
    refine ⟨_, htake, fun hnot => ?_, fun hstill => ?_⟩
    · rw [if_neg (mt (stillHalted_iff s t).1 hnot)]
      exact ⟨h.mute.trans (congrArg mute hentry.symm), h.tells, h.answered⟩
    · rw [if_pos ((stillHalted_iff s t).2 hstill)]
      have h1 := h.enterUnresponsive
      refine ⟨h1.mute.trans (congrArg mute ?_), h1.tells, h1.answered⟩
      rw [hentry, unresponsiveEntry_ran]
      rfl
  · have h := ((Ran.refl s t).cancelService.failHead_tail .timeout).enterRunning
    simp only [cancelService_acc, List.nil_append] at h
    refine ⟨_, ?_, h.mute.trans (congrArg mute ?_), h.tells, h.answered⟩
    · refine congrArg Host.Outcome.next ?_
      unfold takeGrantTimeout
      exact if_pos hreq
    · rw [leaves_modAcc_eq_ran, modRc_ran, cancelService_rc]
      rfl

end Sys2Proof.Machine.State
end

section
/-! PROOF. Requests that an owner takes at once, and an immediate response that follows deferred answers and STATE notices (R160, R163). -/

namespace Sys2Proof.Machine.State

/-! ### The way of a request to the owner of its target -/

section

variable (s : State) (l t : Index) (tag : Byte) {q : Request}

theorem windowOpen_afterFrame : (s.afterFrame l).windowOpen l = s.windowOpen l :=
  (s.afterFrame_sameVoice l).windowOpen (tags_afterFrame s l)

/-- A request for a target up to 3 is taken at once by its owner. -/
theorem requestArrives_targeted (h : s.requestOpen l tag = true) (hw : q.kind ∈ Request.deferredKinds → s.windowOpen l = true)
    (hq : q.target? = some (indexByte t)) (hroute : ∀ x : State, x.route l tag q = x.handOver l tag q none) :
    s.requestArrives l tag q = (s.afterDelivery l).ownerTake l tag q none := by
  rw [s.requestArrives_of_open l tag q h fun hk => by rw [windowOpen_afterFrame]; exact hw hk, hroute,
    handOver_of_target (s.afterFrame l) l t tag q none hq, deliver_afterFrame s l tag q none ((s.requestOpen_iff l tag).1 h).1]

/-- A request for a target above 3 is refused at once (R160). -/
theorem requestArrives_noTarget (h : s.requestOpen l tag = true) (hkind : q.kind ∉ Request.deferredKinds) {b : Byte}
    (hq : q.target? = some b) (hb : 3 < b.toNat) (hroute : ∀ x : State, x.route l tag q = x.handOver l tag q none) :
    s.requestArrives l tag q = (s.afterFrame l).respondPlain l tag q.kind .badOperand := by
  rw [s.requestArrives_of_open l tag q h fun hk => absurd hk hkind, hroute, handOver_of_noTarget (s.afterFrame l) l tag q none hq hb]

theorem isOpen_of_requestOpen (h : s.requestOpen l tag = true) : s.isOpen l = true := ((s.requestOpen_iff l tag).1 h).2.1

end

/-! ### States that send and hear alike -/

/-- The queues of responses and notices are as in `s`, the same sessions are open, and they watch the same targets. -/
structure Quiet (s x : State) : Prop where
  respQ : ∀ n, (x.link n).respQ = (s.link n).respQ
  notices : x.notices = s.notices
  isOpen : ∀ n, x.isOpen n = s.isOpen n
  watches : ∀ n t, x.watches n t = s.watches n t

theorem afterDelivery_quiet (s : State) (l : Index) : s.Quiet (s.afterDelivery l) where
  respQ n := by
    by_cases hn : n = l
    · rw [hn]
      exact (s.afterDelivery_sameVoice l).respQ
    · rw [(s.afterDelivery_sameVoice l).links n hn]
  notices := rfl
  isOpen n := isOpen_modOpen (s.modLink l _) n l _
  watches n t := s.watches_afterDelivery l n t

namespace Quiet

variable {s x y : State}

theorem notice (h : s.Quiet x) (n : Index) : x.notice n = s.notice n := congrArg (fun ns : Quad NoticeQueue => ns.get n) h.notices

theorem modOpen (h : s.Quiet x) (l : Index) (f : OpenSession → OpenSession) (hf : ∀ o, (f o).watch = o.watch) :
    s.Quiet (x.modOpen l f) where
  respQ := h.respQ
  notices := h.notices
  isOpen n := (isOpen_modOpen x n l f).trans (h.isOpen n)
  watches n t := (watches_modOpen x n l t hf).trans (h.watches n t)

theorem joinWindow (h : s.Quiet x) (l : Index) (tag : Byte) : s.Quiet (x.joinWindow l tag) := h.modOpen l _ fun _ => rfl

/-- A change of the targets alone. -/
theorem same (h : s.Quiet x) (hl : y.links = x.links) (hs : y.sessions = x.sessions) (hn : y.notices = x.notices) : s.Quiet y where
  respQ n := (congrArg (fun us : Quad LinkUnit => (us.get n).respQ) hl).trans (h.respQ n)
  notices := hn.trans h.notices
  isOpen n := (isOpen_congr hs n).trans (h.isOpen n)
  watches n t := (watches_congr hs n t).trans (h.watches n t)

theorem heard (h : s.Quiet x) {n : Index} {bs : List NoticeBody} (hx : x.heard y n bs) : s.heard y n bs := by
  unfold State.heard at hx ⊢
  rwa [h.notice] at hx

theorem tells (h : s.Quiet x) {t : Index} {bs : List NoticeBody} (hx : x.tells y t bs) : s.tells y t bs := fun n => by
  have hn := h.heard (hx n)
  rwa [h.watches] at hn

theorem answered (h : s.Quiet x) {rs : List Answer} (hx : x.answered y rs) : s.answered y rs := fun n => by
  have hn := hx n
  rwa [h.respQ, h.isOpen] at hn

end Quiet

/-- STATE notices that reach the watchers reach those other than Sl. -/
theorem tells.others {s y : State} {t : Index} {bs : List NoticeBody} (h : s.tells y t bs) (l : Index) : s.tellsOthers y l t bs :=
  fun n _ => h n

/-- With no deferred answer every response queue is as before. -/
theorem answered.none {s y : State} (h : s.answered y []) (n : Index) : (y.link n).respQ = (s.link n).respQ := by
  rw [h n]
  simp

/-- Deferred answers to Sl alone. -/
theorem answered.alone {s y : State} {rs : List Answer} {l : Index} (h : s.answered y rs) (ho : s.isOpen l = true)
    (hl : ∀ a ∈ rs, a.1 = l) : (y.link l).respQ = (s.link l).respQ ++ rs.map (fun a => { owner := .session, resp := a.2 }) ∧
      s.othersUnanswered y l := by
  refine ⟨?_, fun n hn => ?_⟩
  · rw [h l, List.filter_eq_self.2 fun a ha => by simp [hl a ha, ho]]
  · have hnone : (rs.filter fun a => a.1 == n && s.isOpen n) = [] := by
      refine List.filter_eq_nil_iff.2 fun a ha => ?_
      rw [hl a ha]
      simp [Ne.symm hn]
    rw [h n, hnone]
    simp

/-! ### Operations that give answers and no notice -/

section

variable (s : State) (t l n : Index)

theorem arbitrate_notices_of_placed (o : RespOwner) (r : Response) : (s.place l o r).notices = s.notices := by
  unfold place
  refine arbitrate_notices_of_waiting _ l ?_
  simp

@[simp] theorem respondDeferred_notices (r : Response) : (s.respondDeferred n r).notices = s.notices := by
  unfold respondDeferred
  split
  · exact arbitrate_notices_of_placed _ n _ r
  · rfl

theorem answerWaiters_notices (p : Waiter → Bool) (st : Status) : (s.answerWaiters t p st).notices = s.notices := by
  have hfold (ws : List Waiter) : ∀ x : State, (ws.foldl (answerWaiter t st) x).notices = x.notices := by
    induction ws with
    | nil => intro x; rfl
    | cons w ws ih => intro x; exact (ih _).trans (respondDeferred_notices _ _ _)
  exact hfold _ _

theorem failSeq_notices (st : Status) : (s.failSeq t st).notices = s.notices := by
  unfold failSeq respondStep
  split
  · rfl
  · split
    · rfl
    · exact respondDeferred_notices _ _ _

theorem endReset_notices (st : Status) (payload : List Byte) : (s.endReset t st payload).notices = s.notices := by
  unfold endReset
  split
  · rfl
  · split
    · rfl
    · exact respondDeferred_notices _ _ _

theorem respondAccess_notices (e : AccEntry) (st : Status) (payload : List Byte) : (s.respondAccess e st payload).notices = s.notices := by
  unfold respondAccess
  split
  · rfl
  · exact respondDeferred_notices _ _ _

theorem failAllAccesses_notices (st : Status) : (s.failAllAccesses t st).notices = s.notices := by
  have hfold (es : List AccEntry) : ∀ x : State, (es.foldl (fun x e => x.respondAccess e st []) x).notices = x.notices := by
    induction es with
    | nil => intro x; rfl
    | cons e es ih => intro x; exact (ih _).trans (respondAccess_notices _ _ _ _)
  exact hfold _ _

/-- While a response waits on Ll, a STATE notice leaves the very entries in the queue of Sl that taking it gives. -/
theorem notifyState_notice_of_waiting (hwaiting : (s.link l).respQ ≠ []) :
    (s.notifyState t).notice l = (s.toWatchers t [s.stateBody t] l).foldl NoticeQueue.take (s.notice l) := by
  have key (ns : List Index) : ∀ x : State, x.mute = s.mute → (x.link l).respQ ≠ [] → ns.Nodup →
      (ns.foldl (fun s' n => if s'.watches n t then s'.queueNotice n (s'.stateBody t) else s') x).notice l =
        if l ∈ ns then (s.toWatchers t [s.stateBody t] l).foldl NoticeQueue.take (x.notice l) else x.notice l := by
    induction ns with
    | nil => intro x _ _ _; rfl
    | cons n ns ih =>
      intro x hmute hx hnodup
      obtain ⟨hn, hns⟩ := List.nodup_cons.1 hnodup
      have hbody : x.stateBody t = s.stateBody t := stateBody_congr (parts_of_mute hmute).2.2.1 t
      have hwatches : x.watches n t = s.watches n t := watches_of_mute hmute n t
      rw [List.foldl_cons, hbody]
      by_cases hw : x.watches n t = true
      · rw [if_pos hw]
        obtain ⟨hmute', hrespQ, -, hothers⟩ := x.queueNotice_spec n (s.stateBody t)
        rw [ih _ (hmute'.trans hmute) (by rwa [hrespQ]) hns]
        by_cases hl : l = n
        · subst hl
          rw [if_neg hn, if_pos List.mem_cons_self, x.queueNotice_notice_of_waiting l _ (isOpen_of_watches hw) hx]
          simp only [toWatchers, ← hwatches, hw, if_true]
          rfl
        · rw [(hothers l hl).2]
          simp [hl]
      · rw [if_neg hw, ih x hmute hx hns]
        by_cases hl : l = n
        · subst hl
          rw [if_neg hn, if_pos List.mem_cons_self]
          simp only [toWatchers, ← hwatches, if_neg hw]
          rfl
        · simp [hl]
  have h := key indices s rfl hwaiting (by decide)
  rwa [if_pos (by simp)] at h

end

/-! ### What Sl holds while a response waits -/

/-- While a response waits on Ll the queue of Sl has the very entries, sent flags included, that taking `bs` gives: a LINK_FAULT handed next
then finds the entry it may coalesce into (R134). -/
def Exact (s y : State) (l : Index) (bs : List NoticeBody) : Prop :=
  (y.link l).respQ ≠ [] → y.notice l = bs.foldl NoticeQueue.take (s.notice l)

namespace Exact

variable {s x y y' : State} {l : Index} {bs : List NoticeBody}

theorem of_notices (h : y.notices = s.notices) : s.Exact y l [] := fun _ => congrArg (fun ns : Quad NoticeQueue => ns.get l) h

theorem silent (h : s.Exact y l bs) (hl : y'.links = y.links) (hn : y'.notices = y.notices) : s.Exact y' l bs := fun hwaiting => by
  have hnotice : y'.notice l = y.notice l := congrArg (fun ns : Quad NoticeQueue => ns.get l) hn
  rw [hnotice]
  exact h (by rwa [show y'.link l = y.link l from congrArg (fun us : Quad LinkUnit => us.get l) hl] at hwaiting)

theorem modRc (h : s.Exact y l bs) (t : Index) (f : RunControl → RunControl) : s.Exact (y.modRc t f) l bs := h.silent rfl rfl

theorem notifyState (h : s.Exact y l bs) (t : Index) : s.Exact (y.notifyState t) l (bs ++ y.toWatchers t [y.stateBody t] l) := fun hwaiting => by
  have hwaiting' : (y.link l).respQ ≠ [] := by
    rw [(y.notifyState_sends t).answered.none l] at hwaiting
    exact hwaiting
  rw [notifyState_notice_of_waiting y t l hwaiting', h hwaiting', List.foldl_append]

theorem of_quiet (h : x.Exact y l bs) (hq : s.Quiet x) : s.Exact y l bs := fun hwaiting => by
  rw [h hwaiting, hq.notice]

end Exact

/-- What Sl has been answered and told when an immediate response to it is given. -/
structure Said (s y : State) (l : Index) (ds : List Response) (bs : List NoticeBody) : Prop where
  isOpen : y.isOpen l = true
  respQ : (y.link l).respQ = (s.link l).respQ ++ ds.map fun d => { owner := .session, resp := d }
  heard : s.heard y l bs
  exact : s.Exact y l bs

/-- An immediate response after deferred ones and notices: placed, or heard as a link fault behind the notices (R163). -/
theorem Said.respondNow {s y : State} {l : Index} {ds : List Response} {bs : List NoticeBody} (h : s.Said y l ds bs) (r : Response) :
    s.repliedAfter (y.respondNow l r) l .session ds r bs := by
  have hreplied := y.respondNow_repliedAfter l r
  rw [h.isOpen, if_pos rfl] at hreplied
  unfold repliedAfter at hreplied ⊢
  simp only [List.map_nil, List.append_nil, List.nil_append, h.respQ, if_true] at hreplied ⊢
  by_cases hroom : ((s.link l).respQ ++ ds.map fun d => ({ owner := .session, resp := d } : RespEntry)).length + Config.immediateNeeds ≤
      Config.respPlaces
  · rw [if_pos hroom] at hreplied ⊢
    exact ⟨hreplied.1, hreplied.2.trans h.heard⟩
  · have hwaiting : (y.link l).respQ ≠ [] := fun hempty => hroom (by rw [← h.respQ, hempty]; decide)
    rw [if_neg hroom] at hreplied ⊢
    refine ⟨hreplied.1, hreplied.2.trans ?_⟩
    rw [h.exact hwaiting, List.foldl_append]

/-- An immediate response to Sl after STATE notices of one target and deferred answers, as the obligations state it. -/
theorem Said.completes {s x y : State} {l t : Index} {ds : List Response} {bs : List NoticeBody} (hq : s.Quiet x)
    (h : s.Said y l ds (if s.watches l t then bs else [])) (htells : x.tells y t bs) (r : Response) :
    (y.respondNow l r).mute = y.mute ∧ s.tellsOthers (y.respondNow l r) l t bs ∧
      (∀ n, n ≠ l → (y.respondNow l r).link n = y.link n) ∧
      s.repliedAfter (y.respondNow l r) l .session ds r (if s.watches l t then bs else []) := by
  obtain ⟨hmute, hothers⟩ := y.respondNow_spec l r
  refine ⟨hmute, fun n hn => ?_, fun n hn => (hothers n hn).1, h.respondNow r⟩
  have := hq.tells htells n
  unfold State.heard at this ⊢
  rw [(hothers n hn).2]
  exact this

end Sys2Proof.Machine.State
end

section
/-! PROOF. Requests that are refused or answered at once, LOCK and UNLOCK (Table 5-1, R99, R100, R159, R185). -/

namespace Sys2Proof.Machine.State

/-! ### The state in which an owner takes a request -/

section

variable (s : State) (l n t : Index)

@[simp] theorem afterDelivery_rc : (s.afterDelivery l).rc t = s.rc t := rfl

@[simp] theorem afterDelivery_acc : (s.afterDelivery l).acc t = s.acc t := rfl

@[simp] theorem afterDelivery_port : (s.afterDelivery l).port t = s.port t := rfl

@[simp] theorem afterDelivery_cfg : (s.afterDelivery l).cfg t = s.cfg t := rfl

@[simp] theorem afterDelivery_bank : (s.afterDelivery l).bank t = s.bank t := rfl

/-- A change of an open session's fields, its role apart. -/
theorem role?_modOpen {f : OpenSession → OpenSession} (h : ∀ o, (f o).role = o.role) : (s.modOpen l f).role? n = s.role? n := by
  unfold role?
  by_cases hn : n = l
  · subst hn
    cases hc : (s.session n).current <;> simp_all [modOpen]
  · simp [modOpen, modSession_session_of_ne s _ hn]

@[simp] theorem role?_afterDelivery : (s.afterDelivery l).role? n = s.role? n := role?_modOpen (s.modLink l _) l n fun _ => rfl

@[simp] theorem isObserver_afterDelivery : (s.afterDelivery l).isObserver n = s.isObserver n := by
  unfold isObserver
  rw [role?_afterDelivery]

@[simp] theorem isSupervisor_afterDelivery : (s.afterDelivery l).isSupervisor n = s.isSupervisor n := by
  unfold isSupervisor
  rw [role?_afterDelivery]

@[simp] theorem windowOpen_afterDelivery : (s.afterDelivery l).windowOpen l = s.windowOpen l := s.windowOpen_afterFrame l

end

section

variable {s : State} {l t : Index} {tag : Byte}

/-- A request answered at once in a state with the voice of `s`. -/
theorem completes_of_respondNow {c : Instr} {x : State} {r : Response} (h : s.requestOpen l tag = true) (hx : s.SameVoice x l)
    (hexec : exec c s = .next (x.respondNow l r)) :
    completes c s fun s' => s'.mute = x.mute ∧ s.othersSilent s' l ∧ s.replied s' l r [] :=
  ⟨_, hexec, respondNow_of_sameVoice r hx (isOpen_of_requestOpen s l tag h)⟩

/-- A request taken at once, and answered so. -/
theorem completes_of_taken {c : Instr} {q : Request} {r : Response} (h : s.requestOpen l tag = true)
    (hexec : exec c s = .next (s.requestArrives l tag q)) (hw : q.kind ∈ Request.deferredKinds → s.windowOpen l = true)
    (hq : q.target? = some (indexByte t)) (hroute : ∀ x : State, x.route l tag q = x.handOver l tag q none)
    (htake : (s.afterDelivery l).ownerTake l tag q none = (s.afterDelivery l).respondNow l r) :
    completes c s fun s' => s'.mute = (s.afterDelivery l).mute ∧ s.othersSilent s' l ∧ s.replied s' l r [] :=
  completes_of_respondNow h (s.afterDelivery_sameVoice l)
    (hexec.trans (congrArg Host.Outcome.next ((s.requestArrives_targeted l t tag h hw hq hroute).trans htake)))

theorem completes_of_noTarget {c : Instr} {q : Request} (h : s.requestOpen l tag = true)
    (hexec : exec c s = .next (s.requestArrives l tag q)) (hkind : q.kind ∉ Request.deferredKinds) {b : Byte}
    (hq : q.target? = some b) (hb : 3 < b.toNat) (hroute : ∀ x : State, x.route l tag q = x.handOver l tag q none) :
    completes c s fun s' => s'.mute = (s.afterFrame l).mute ∧ s.othersSilent s' l ∧
      s.replied s' l { tag, status := .badOperand, kind := q.kind, payload := [] } [] :=
  completes_of_respondNow h (s.afterFrame_sameVoice l)
    (hexec.trans (congrArg Host.Outcome.next (s.requestArrives_noTarget l tag h hkind hq hb hroute)))

/-- Deferred answers and STATE notices, as the requester's link has them. -/
theorem Ran.said {x z y : State} {rs : List Answer} {r : RunControl} {bs : List NoticeBody} (h : x.Ran z y t rs r bs) (hq : s.Quiet x)
    (ho : s.isOpen l = true) (he : x.Exact y l (x.toWatchers t bs l)) :
    s.Said y l ((rs.filter fun a => a.1 == l).map (·.2)) (if s.watches l t then bs else []) where
  isOpen := (h.isOpen l).trans ((hq.isOpen l).trans ho)
  respQ := by
    rw [hq.answered h.answered l]
    simp [ho, Function.comp_def]
  heard := hq.tells h.tells l
  exact := by
    have hx := he.of_quiet hq
    rwa [toWatchers, hq.watches] at hx

/-- An immediate response after deferred answers and STATE notices of one target. -/
theorem Ran.replies {x z y : State} {rs : List Answer} {r : RunControl} {bs : List NoticeBody} (h : x.Ran z y t rs r bs) (hq : s.Quiet x)
    (ho : s.isOpen l = true) (he : x.Exact y l (x.toWatchers t bs l)) (resp : Response) :
    let s' := y.respondNow l resp
    s'.mute = (z.ran t rs r).mute ∧ s.tellsOthers s' l t bs ∧
      (∀ n, n ≠ l → (s'.link n).respQ = (s.link n).respQ ++ (rs.filter fun a => a.1 == n && s.isOpen n).map
        fun a => { owner := .session, resp := a.2 }) ∧
      s.repliedAfter s' l .session ((rs.filter fun a => a.1 == l).map (·.2)) resp (if s.watches l t then bs else []) := by
  obtain ⟨hmute, htells, hlinks, hreplied⟩ := (h.said hq ho he).completes hq h.tells resp
  refine ⟨hmute.trans h.mute, htells, fun n hn => ?_, hreplied⟩
  rw [hlinks n hn]
  exact hq.answered h.answered n

/-- The STATE notice of a Run Control Unit `r`. -/
def stateOf (t : Index) (r : RunControl) : NoticeBody :=
  .state t r.run r.hold r.lock (if r.run = .halted then some (r.haltCause, r.lastPc) else none)

theorem stateBody_of_ran {z y : State} {rs : List Answer} {r : RunControl} (h : y.mute = (z.ran t rs r).mute) :
    y.stateBody t = stateOf t r := by
  have hrc : y.rc t = r := by rw [rc_of_mute h, ran_rc]
  unfold stateBody
  rw [hrc]
  rfl

/-- A STATE notice after answers alone. -/
theorem Ran.exact_notified {x z y : State} {rs : List Answer} {r : RunControl} (h : x.Ran z y t rs r []) (hn : y.notices = x.notices) :
    x.Exact (y.notifyState t) l (x.toWatchers t [stateOf t r] l) := by
  have he := (Exact.of_notices (l := l) hn).notifyState t
  rw [stateBody_of_ran h.mute, List.nil_append, toWatchers, h.watches] at he
  exact he

/-- With nothing deferred answered, the other links' response queues are as before. -/
theorem Ran.replies_alone {x z y : State} {r : RunControl} {bs : List NoticeBody} (h : x.Ran z y t [] r bs) (hq : s.Quiet x)
    (ho : s.isOpen l = true) (he : x.Exact y l (x.toWatchers t bs l)) (resp : Response) :
    let s' := y.respondNow l resp
    s'.mute = (z.ran t [] r).mute ∧ s.tellsOthers s' l t bs ∧ s.othersUnanswered s' l ∧
      s.replied s' l resp (if s.watches l t then bs else []) := by
  obtain ⟨hmute, htells, hlinks, hreplied⟩ := h.replies hq ho he resp
  exact ⟨hmute, htells, fun n hn => by simpa using hlinks n hn, hreplied⟩

end

/-! ### Refusals by role, lock and hold set (Table 5-1) -/

/-- Settles O33: each refusal is the first branch of its owner. -/
theorem runRequestsRefused : Obligations.RunRequestsRefused := by
  unfold Obligations.RunRequestsRefused
  have hhalt : (0x10 : Byte) ∉ Request.deferredKinds := by decide
  have hresume : (0x11 : Byte) ∉ Request.deferredKinds := by decide
  have hfrel : (0x16 : Byte) ∉ Request.deferredKinds := by decide
  have hconfig : (0x50 : Byte) ∉ Request.deferredKinds := by decide
  refine ⟨fun s l t tag item value h => ⟨fun hobs => ⟨?_, ?_⟩, fun hsup => ⟨?_, fun hitem => ?_, fun hw => ?_⟩⟩,
    fun s l t tag h hobs => ⟨fun hlock => ?_, fun hno hself => ?_⟩⟩
  · refine completes_of_taken (q := .halt (indexByte t) true) h rfl (fun hk => absurd hk hhalt) rfl (fun _ => rfl)
      ((atTarget_indexByte _ t fun i => takeHalt l tag i true).trans ?_)
    simp [takeHalt, hobs, respondPlain]
  · refine completes_of_taken (q := .resume (indexByte t) true) h rfl (fun hk => absurd hk hresume) rfl (fun _ => rfl)
      ((atTarget_indexByte _ t fun i => takeResume l tag i true).trans ?_)
    simp [takeResume, hobs, respondPlain]
  · refine completes_of_taken (q := .frel (indexByte t)) h rfl (fun hk => absurd hk hfrel) rfl (fun _ => rfl)
      ((atTarget_indexByte _ t fun i => takeFrel l tag i).trans ?_)
    simp [takeFrel, hsup, respondPlain]
  · refine completes_of_taken (q := .configSet (indexByte t) item value) h rfl (fun hk => absurd hk hconfig) rfl (fun _ => rfl)
      ((atTarget_indexByte _ t fun i => takeConfigSet l tag i item value).trans ?_)
    simp [takeConfigSet, configRefusal?, configItem, hitem, hsup, respondPlain]
  · refine completes_of_taken (q := .treset (indexByte t)) h rfl (fun _ => hw) rfl (fun _ => rfl)
      ((atTarget_indexByte _ t fun i => takeTreset l tag i).trans ?_)
    simp [takeTreset, hsup, respondPlain]
  · refine completes_of_taken (q := .halt (indexByte t) true) h rfl (fun hk => absurd hk hhalt) rfl (fun _ => rfl)
      ((atTarget_indexByte _ t fun i => takeHalt l tag i true).trans ?_)
    simp [takeHalt, hobs, hlock, respondPlain]
  · refine completes_of_taken (q := .resume (indexByte t) true) h rfl (fun hk => absurd hk hresume) rfl (fun _ => rfl)
      ((atTarget_indexByte _ t fun i => takeResume l tag i true).trans ?_)
    simp [takeResume, hobs, hno, hself, respondPlain]

/-- The value of an item up to 6, by its number (Table 10-1). -/
theorem value_eq (c : PortConfig) {item : Byte} (h : item.toNat ≤ 6) : c.value item =
    match item.toNat with
    | 0 => c.stop
    | 1 => c.run
    | 2 => c.grant
    | 3 => c.exchange
    | 4 => c.resetHold
    | 5 => flagByte c.intrusive
    | _ => flagByte c.portEnable := by
  simp only [PortConfig.value, ← BitVec.toNat_inj]
  generalize item.toNat = k at h
  interval_cases k <;> rfl

/-- Settles O51: an item above 6 is refused, and the value of any other is the configured one. -/
theorem configReadReturnsValue : Obligations.ConfigReadReturnsValue := by
  unfold Obligations.ConfigReadReturnsValue
  intro s l t tag item h
  refine completes_of_taken (q := .configRead (indexByte t) item) h rfl
    (fun hk => absurd hk (show (0x50 : Byte) ∉ Request.deferredKinds by decide)) rfl (fun _ => rfl)
    ((atTarget_indexByte _ t fun i => takeConfigRead l tag i item).trans ?_)
  unfold takeConfigRead configItem
  by_cases hitem : item.toNat ≤ 6
  · rw [if_neg (by simp [hitem]), if_pos hitem, afterDelivery_cfg, value_eq _ hitem] <;> rfl
  · rw [if_pos (by simp [hitem]), if_neg hitem]
    rfl

/-! ### Locks (R99, R100) -/

/-- A change of the Run Control Unit, its STATE notice, and an immediate response. -/
theorem replies_of_notified {s : State} {l t : Index} {tag : Byte} (h : s.requestOpen l tag = true) (f : RunControl → RunControl)
    (resp : Response) :
    let x := (s.afterDelivery l).modRc t f
    let s' := (x.notifyState t).respondNow l resp
    s'.mute = x.mute ∧ s.tellsOthers s' l t [s'.stateBody t] ∧ s.othersUnanswered s' l ∧
      s.replied s' l resp (if s.watches l t then [s'.stateBody t] else []) := by
  have hx := (Ran.refl (s.afterDelivery l) t).modRc f
  obtain ⟨hmute, htells, hlinks, hreplied⟩ := hx.notifyState.replies_alone (s.afterDelivery_quiet l) (isOpen_of_requestOpen s l tag h)
    (hx.exact_notified rfl) resp
  have hbody := stateBody_of_ran hmute
  simp only [hbody]
  exact ⟨hmute.trans (congrArg mute (modRc_eq_ran _ t f).symm), htells, hlinks, hreplied⟩

/-- Settles O31: the checks in their order, and the change of the lock with its notice. -/
theorem lockAndUnlock : Obligations.LockAndUnlock := by
  unfold Obligations.LockAndUnlock
  have hk14 : (0x14 : Byte) ∉ Request.deferredKinds := by decide
  have hk15 : (0x15 : Byte) ∉ Request.deferredKinds := by decide
  refine ⟨fun s l t tag target h => ?_, fun s l t tag target h => ?_⟩
  · have htaken : exec (.lock l tag (indexByte t)) s = .next ((s.afterDelivery l).takeLock l tag t) :=
      congrArg Host.Outcome.next ((s.requestArrives_targeted l t tag (q := .lock (indexByte t)) h (fun hk => absurd hk hk14) rfl
        fun _ => rfl).trans (atTarget_indexByte _ t fun i => takeLock l tag i))
    refine ⟨fun hb => completes_of_noTarget (q := .lock target) h rfl hk14 rfl hb fun _ => rfl, fun hobs => ?_, fun hobs hlock => ?_,
      fun o hobs hlock hne => ?_, fun hobs hlock => ⟨_, htaken, ?_⟩⟩
    · exact completes_of_respondNow h (s.afterDelivery_sameVoice l) (htaken.trans (by simp [takeLock, hobs, respondPlain]))
    · exact completes_of_respondNow h (s.afterDelivery_sameVoice l) (htaken.trans (by simp [takeLock, hobs, hlock]))
    · exact completes_of_respondNow h (s.afterDelivery_sameVoice l) (htaken.trans (by simp [takeLock, hobs, hlock, hne]))
    · have hgrant : (s.afterDelivery l).takeLock l tag t = (((s.afterDelivery l).modRc t fun r =>
          { r with lock := some l, stepSeq := r.stepSeq.map fun q => { q with interrupted := q.interrupted || q.session != l } }).notifyState
          t).respondNow l { tag, status := .ok, kind := 0x14, payload := [indexByte t, indexByte l] } := by
        have hmark : (fun q : StepSeq => if q.session = l then q else { q with interrupted := true }) =
            fun q => { q with interrupted := q.interrupted || q.session != l } := by
          funext q
          obtain ⟨session, _, _, _, _, _, _, _, _⟩ := q
          by_cases hq : session = l <;> simp [hq]
        simp [takeLock, hobs, hlock, hmark]
      rw [hgrant]
      exact replies_of_notified h _ _
  · have htaken : exec (.unlock l tag (indexByte t)) s = .next ((s.afterDelivery l).takeUnlock l tag t) :=
      congrArg Host.Outcome.next ((s.requestArrives_targeted l t tag (q := .unlock (indexByte t)) h (fun hk => absurd hk hk15) rfl
        fun _ => rfl).trans (atTarget_indexByte _ t fun i => takeUnlock l tag i))
    refine ⟨fun hb => completes_of_noTarget (q := .unlock target) h rfl hk15 rfl hb fun _ => rfl, fun hobs => ?_, fun hobs hlock => ?_,
      fun hobs hlock => ⟨_, htaken, ?_⟩⟩
    · exact completes_of_respondNow h (s.afterDelivery_sameVoice l) (htaken.trans (by simp [takeUnlock, hobs, respondPlain]))
    · exact completes_of_respondNow h (s.afterDelivery_sameVoice l) (htaken.trans (by simp [takeUnlock, hobs, hlock, respondPlain]))
    · have hfreed : (s.afterDelivery l).takeUnlock l tag t = (((s.afterDelivery l).modRc t fun r =>
          { r with lock := none }).notifyState t).respondNow l { tag, status := .ok, kind := 0x15, payload := [] } := by
        simp [takeUnlock, hobs, hlock, respondPlain]
      rw [hfreed]
      exact replies_of_notified h _ _

end Sys2Proof.Machine.State
end

section
/-! PROOF. HALT and RESUME (R9, R10, R13, Tables 1-3 and 1-4). -/

namespace Sys2Proof.Machine.State

/-! ### Claims in normal form -/

theorem haltMessages_ran (z : State) (t : Index) (rs : List Answer) (r r' : RunControl) (a : AccessEngine) :
    haltMessages t r' a (z.ran t rs r) = (haltMessages t r' a z).ran t rs r := by
  unfold haltMessages
  split
  · rw [handRc_ran]
  · unfold cancelService clearOutstanding
    rw [hand_eq _ _ (by simp), hand_eq _ _ (by simp), modPort_ran, modPort_ran, handRc_ran]
  · split
    · rfl
    · rw [handRc_ran]
  · rfl

theorem haltMessages_of_mute {x y : State} (h : y.mute = x.mute) (t : Index) (r : RunControl) (a : AccessEngine) :
    (haltMessages t r a y).mute = (haltMessages t r a x).mute := by
  rw [mute_haltMessages, h, ← mute_haltMessages]

theorem haltMessages_sessions (z : State) (t : Index) (r : RunControl) (a : AccessEngine) : (haltMessages t r a z).sessions = z.sessions := by
  unfold haltMessages
  split
  · exact handRc_sessions _ _ _
  · rw [handRc_sessions]
    unfold cancelService
    rw [hand_eq _ _ (by simp)]
    rfl
  · split
    · rfl
    · exact handRc_sessions _ _ _
  · rfl

section

variable {s z y : State} {t : Index} {rs : List Answer} {r : RunControl} {bs : List NoticeBody}

theorem Ran.claim (h : s.Ran z y t rs r bs) (n : Index) (c : StopCause) :
    s.Ran (haltMessages t r (z.acc t) z) (y.claim t n c) t rs (claimRc n c (z.acc t) r) (bs ++ claimNotices t n r (z.acc t)) := by
  have d := y.claim_does t n c
  rw [h.rc, h.acc] at d
  refine (h.next d ?_ ((haltMessages_sessions ..).trans h.sessions)).congr (List.append_nil _) rfl rfl
  rw [List.append_nil, haltMessages_of_mute (modRc_of_mute h.mute t _), modRc_ran, haltMessages_ran]

/-- The notice of a claim is that of the state it leaves. -/
theorem claimNotices_eq (t n : Index) (c : StopCause) (r : RunControl) (a : AccessEngine) : claimNotices t n r a =
    if haltRun r a ≠ r.run ∨ r.run = .halted ∧ ¬ r.hold.has n then [stateOf t (claimRc n c a r)] else [] := by
  unfold claimNotices stateOf claimRc
  by_cases hmoves : haltRun r a ≠ r.run
  · have hnot : haltRun r a ≠ .halted := fun hhalted => by
      unfold haltRun at hmoves hhalted
      cases hr : r.run <;> cases hfly : a.inFlight <;> simp_all
    simp [hmoves, hnot]
  · have hrun : haltRun r a = r.run := not_not.1 hmoves
    by_cases hjoins : r.run = .halted ∧ r.hold.has n = false
    · simp [hrun, hjoins.1, hjoins.2]
    · simp [hrun, hjoins]

end

/-! ### HALT -/

theorem haltAnswer_eq (x : RunState) : haltAnswer x =
    if haltAtOnce x then some (if x = .halted then .ok else if x = .detached then .detached else .unresponsive) else none := by
  cases x <;> rfl

theorem haltMessages_of_atOnce {r : RunControl} (h : haltAtOnce r.run = true) (t : Index) (a : AccessEngine) (z : State) :
    haltMessages t r a z = z := by
  unfold haltMessages
  cases hr : r.run <;> simp_all [haltAtOnce]

/-- A claim that is answered at once changes the hold set, with a notice where the target stays HALTED. -/
theorem claim_of_atOnce {x : State} {t : Index} (h : haltAtOnce (x.rc t).run = true) (n : Index) (c : StopCause) : x.claim t n c =
    if (x.rc t).run = .halted ∧ ¬ (x.rc t).hold.has n then (x.modRc t fun r => { r with hold := r.hold.add n }).notifyState t
    else x.modRc t fun r => { r with hold := r.hold.add n } := by
  unfold State.claim
  cases hr : (x.rc t).run <;> rw [hr] at h <;> cases hh : (x.rc t).hold.has n <;> simp_all [haltAtOnce]

theorem haltRun_of_atOnce {r : RunControl} (h : haltAtOnce r.run = true) (a : AccessEngine) : haltRun r a = r.run := by
  unfold haltRun
  cases hr : r.run <;> simp_all [haltAtOnce]

/-- While a response waits, a claim answered at once leaves the very entries that its notice gives. -/
theorem Ran.exact_claim {x z y : State} {t : Index} {rs : List Answer} {r : RunControl} (h : x.Ran z y t rs r [])
    (hn : y.notices = x.notices) (honce : haltAtOnce r.run = true) (l n : Index) (c : StopCause) (a : AccessEngine) :
    x.Exact (y.claim t n c) l (x.toWatchers t (claimNotices t n r a) l) := by
  have hrun := haltRun_of_atOnce honce a
  rw [claim_of_atOnce (by rw [h.rc]; exact honce), h.rc, claimNotices_eq t n c]
  by_cases hjoins : r.run = .halted ∧ ¬ r.hold.has n
  · rw [if_pos hjoins, if_pos (.inr hjoins)]
    have he := (h.modRc fun r => { r with hold := r.hold.add n }).exact_notified (l := l) hn
    have hbody : stateOf t { r with hold := r.hold.add n } = stateOf t (claimRc n c a r) := by
      unfold stateOf claimRc
      rw [hrun]
    rwa [hbody] at he
  · rw [if_neg hjoins, if_neg fun hh => hh.elim (fun hne => hne hrun) hjoins]
    unfold toWatchers
    rw [ite_self]
    exact (Exact.of_notices hn).modRc t _

/-- The Run Control Unit of a claim whose waiter, if it has one, is already in the list. -/
theorem claimRc_eq_haltRc (l : Index) (tag : Byte) (a : AccessEngine) (r : RunControl) :
    claimRc l (.requested l) a
      { r with waiters := if haltAtOnce r.run then r.waiters else r.waiters ++ [{ session := l, tag, kind := .halt }] } =
      haltRc l tag a r := by
  simp only [claimRc, haltRc, Option.or_none]
  rfl

/-- Settles O3: a claim, behind a waiter where it is deferred and before the response where it is not. -/
theorem haltActsByRunState : Obligations.HaltActsByRunState := by
  unfold Obligations.HaltActsByRunState
  intro s l t tag h hobs hlock hw
  have ho := isOpen_of_requestOpen s l tag h
  have htaken : exec (.halt l tag (indexByte t)) s = .next ((s.afterDelivery l).takeHalt l tag t true) :=
    congrArg Host.Outcome.next ((s.requestArrives_targeted l t tag (q := .halt (indexByte t) true) h
      (fun hk => absurd hk (show (0x10 : Byte) ∉ Request.deferredKinds by decide)) rfl
      fun _ => rfl).trans (atTarget_indexByte _ t fun i => takeHalt l tag i true))
  refine ⟨_, htaken, ?_⟩
  have hq := s.afterDelivery_quiet l
  have hopen : ((s.afterDelivery l).isObserver l) = false := by simpa using hobs
  have hfree : ((s.afterDelivery l).rc t).lockedAgainst l = false := by simpa using hlock
  cases honce : haltAtOnce (s.rc t).run with
  | true =>
    have htake : (s.afterDelivery l).takeHalt l tag t true = ((s.afterDelivery l).claim t l (.requested l)).respondNow l
        { tag, kind := 0x10, payload := []
          status := if (s.rc t).run = .halted then .ok else if (s.rc t).run = .detached then .detached else .unresponsive } := by
      simp [takeHalt, hobs, hlock, haltAnswer_eq, honce, respondPlain]
    have hr := (Ran.refl (s.afterDelivery l) t).claim l (.requested l)
    have he := (Ran.refl (s.afterDelivery l) t).exact_claim rfl honce l l (.requested l) (s.acc t)
    rw [haltMessages_of_atOnce (by exact honce), List.nil_append] at hr
    obtain ⟨hmute, htells, hlinks, hreplied⟩ := hr.replies_alone hq ho he
      { tag, kind := 0x10, payload := []
        status := if (s.rc t).run = .halted then .ok else if (s.rc t).run = .detached then .detached else .unresponsive }
    have hbody := stateBody_of_ran hmute
    rw [htake]
    simp only [hbody, honce, if_true]
    rw [claimNotices_eq t l (.requested l)] at htells hreplied
    refine ⟨hmute.trans (congrArg mute ?_), htells, hlinks, hreplied⟩
    have hwaiters := claimRc_eq_haltRc l tag (s.acc t) (s.rc t)
    simp only [honce, if_true] at hwaiters
    unfold haltEffect
    simp only [afterDelivery_rc, afterDelivery_acc, honce, if_true]
    rw [haltMessages_of_atOnce honce, modRc_eq_ran, afterDelivery_rc, ← hwaiters]
  | false =>
    have hwindow := hw honce
    set x := ((s.afterDelivery l).joinWindow l tag) with hx
    have htake : (s.afterDelivery l).takeHalt l tag t true = ((x.modRc t fun r =>
        { r with waiters := r.waiters ++ [{ session := l, tag, kind := .halt }] }).claim t l (.requested l)) := by
      simp [takeHalt, hobs, hlock, haltAnswer_eq, honce, hwindow, addWaiter, hx]
    have hr := ((Ran.refl x t).modRc fun r => { r with waiters := r.waiters ++ [{ session := l, tag, kind := .halt }] }).claim l (.requested l)
    have hwaiters := claimRc_eq_haltRc l tag (s.acc t) (s.rc t)
    simp only [honce, Bool.false_eq_true, if_false] at hwaiters
    have hr' : x.Ran (haltMessages t (s.rc t) (s.acc t) x) ((x.modRc t fun r =>
        { r with waiters := r.waiters ++ [{ session := l, tag, kind := .halt }] }).claim t l (.requested l)) t []
        (haltRc l tag (s.acc t) (s.rc t)) (if haltRun (s.rc t) (s.acc t) ≠ (s.rc t).run ∨ (s.rc t).run = .halted ∧ ¬ (s.rc t).hold.has l then
          [stateOf t (haltRc l tag (s.acc t) (s.rc t))] else []) := by
      refine hr.congr rfl hwaiters ?_
      rw [← hwaiters, List.nil_append, claimNotices_eq t l (.requested l)]
      rfl
    have hbody := stateBody_of_ran hr'.mute
    have hqx := hq.joinWindow l tag
    have htells := hqx.tells hr'.tells
    have hanswered := hqx.answered hr'.answered
    rw [htake]
    simp only [hbody, honce, Bool.false_eq_true, if_false]
    refine ⟨hr'.mute.trans (congrArg mute ?_), htells.others l, fun n _ => hanswered.none n, hanswered.none l, htells l⟩
    unfold haltEffect
    simp only [afterDelivery_rc, afterDelivery_acc, honce, Bool.false_eq_true, if_false]
    rw [modRc_eq_ran, haltMessages_ran]
    rfl

end Sys2Proof.Machine.State
end

section
/-! PROOF. RESUME (R7, R13, R34, Table 1-4). -/

namespace Sys2Proof.Machine.State

section

variable {s x y z : State} {l t : Index} {rs : List Answer} {r : RunControl} {bs : List NoticeBody}

/-- An immediate response to Sl after deferred answers to Sl alone and STATE notices of one target. -/
theorem Ran.replies_own (h : x.Ran z y t rs r bs) (hq : s.Quiet x) (ho : s.isOpen l = true) (he : x.Exact y l (x.toWatchers t bs l))
    (hl : ∀ a ∈ rs, a.1 = l) (resp : Response) :
    let s' := y.respondNow l resp
    s'.mute = (z.ran t rs r).mute ∧ s.tellsOthers s' l t bs ∧ s.othersUnanswered s' l ∧
      s.repliedAfter s' l .session (rs.map (·.2)) resp (if s.watches l t then bs else []) := by
  obtain ⟨hmute, htells, hlinks, hreplied⟩ := h.replies hq ho he resp
  have hself : (rs.filter fun a => a.1 == l) = rs := List.filter_eq_self.2 fun a ha => by simp [hl a ha]
  rw [hself] at hreplied
  refine ⟨hmute, htells, fun n hn => ?_, hreplied⟩
  have hnone : (rs.filter fun a => a.1 == n && s.isOpen n) = [] := List.filter_eq_nil_iff.2 fun a ha => by
    rw [hl a ha]
    simp [Ne.symm hn]
  rw [hlinks n hn, hnone]
  simp

end

theorem Quiet.refl (s : State) : s.Quiet s := ⟨fun _ => rfl, rfl, fun _ => rfl, fun _ _ => rfl⟩

/-- A second run of operations, behind answers and a change that nobody hears. -/
theorem Ran.behind {x z1 y1 x2 z y : State} {t : Index} {rs : List Answer} {r1 r : RunControl} {bs : List NoticeBody}
    (h1 : x.Ran z1 y1 t rs r1 []) (hn : y1.notices = x.notices) (hq : y1.Quiet x2) (h2 : x2.Ran z y t [] r bs) :
    x.tells y t bs ∧ x.answered y rs := by
  refine ⟨fun n => ?_, fun n => ?_⟩
  · have htold := hq.tells h2.tells n
    unfold State.heard at htold ⊢
    rwa [h1.watches, show y1.notice n = x.notice n from congrArg (fun ns : Quad NoticeQueue => ns.get n) hn] at htold
  · rw [h2.answered.none n, hq.respQ n]
    exact h1.answered n

/-- A later run of operations on the Run Control Unit. -/
theorem ran_ran (z : State) (t : Index) (r r' : RunControl) : (z.ran t [] r).ran t [] r' = z.ran t [] r' := by
  unfold ran
  simp

/-! ### What a RESUME removes -/

theorem resumeLater_eq (l : Index) (r : RunControl) : resumeLater l r = ((resumeHold l r).isEmpty && resumeDefers r.run) := by
  unfold resumeLater
  cases r.run <;> rfl

theorem resumeAnswer_eq (x : RunState) : resumeAnswer x = resumeStatus x := by cases x <;> rfl

theorem waiterAnswer_aborted (hold hold' : HoldSet) (w : Waiter) : waiterAnswer .aborted hold w = waiterAnswer .aborted hold' w := by
  simp [waiterAnswer]

/-- The Run Control Unit once the requester and SELF have left and the requester's HALT waiters are answered. -/
def resumedRc (l : Index) (r : RunControl) : RunControl :=
  { r with
    hold := resumeHold l r
    waiters := r.waiters.filter fun w => !(w.kind == .halt && w.session == l)
    stepSeq := r.stepSeq.map fun q => if q.session = l ∧ r.hold.has l then { q with aborted := true } else q }

/-- The requester and SELF leave, and the requester's HALT waiters are answered ABORTED. -/
def resumed (l t : Index) (x : State) : State :=
  (x.modRc t fun r =>
    { r with
      hold := x.holdAfterResume l t
      stepSeq := r.stepSeq.map fun q => if q.session = l && (x.rc t).hold.has l then { q with aborted := true } else q }).abortHalts t (· == l)

theorem resumed_notices (l t : Index) (x : State) : (x.resumed l t).notices = x.notices := answerWaiters_notices _ t _ _

theorem resumed_ran (l t : Index) (x : State) : x.Ran x (x.resumed l t) t (resumeAborts l (x.rc t)) (resumedRc l (x.rc t)) [] := by
  have h := ((Ran.refl x t).modRc fun r =>
    { r with
      hold := x.holdAfterResume l t
      stepSeq := r.stepSeq.map fun q => if q.session = l && (x.rc t).hold.has l then { q with aborted := true } else q }).answerWaiters
    (fun w => w.kind == .halt && w.session == l) .aborted
  refine h.congr ?_ ?_ rfl
  · exact List.map_congr_left fun w _ => waiterAnswer_aborted _ _ w
  · simp [resumedRc, holdAfterResume, resumeHold]

theorem resumeAborts_own (l : Index) (r : RunControl) : ∀ a ∈ resumeAborts l r, a.1 = l := by
  intro a ha
  obtain ⟨w, hw, rfl⟩ := List.mem_map.1 ha
  have hkeep := (List.mem_filter.1 hw).2
  simp only [Bool.and_eq_true, beq_iff_eq] at hkeep
  exact hkeep.2

section

variable (x : State) (l t : Index) (tag : Byte)

/-- A RESUME that removes a member and is answered at once. -/
theorem takeResume_now (hobs : x.isObserver l = false) (hremoves : (x.rc t).hold.has l ∨ (x.rc t).hold.self)
    (hnow : resumeLater l (x.rc t) = false) :
    x.takeResume l tag t true =
      let y := if (x.rc t).run = .halted then (x.resumed l t).notifyState t else x.resumed l t
      y.respondNow l
        { tag, status := resumeStatus (x.rc t).run, kind := 0x11
          payload := if resumeStatus (x.rc t).run = .ok then
            [flagByte (!(resumeHold l (x.rc t)).isEmpty), (resumeHold l (x.rc t)).byte] else [] } := by
  have hremoves' : ((x.rc t).hold.has l || (x.rc t).hold.self) = true := by simpa using hremoves
  have hdeferred : ((x.holdAfterResume l t).isEmpty && resumeDefers (x.rc t).run) = false := (resumeLater_eq l (x.rc t)).symm.trans hnow
  have hr := x.resumed_ran l t
  have hafter : (if (x.rc t).run = .halted then (x.resumed l t).afterHoldChange t else x.resumed l t) =
      if (x.rc t).run = .halted then (x.resumed l t).notifyState t else x.resumed l t := by
    split
    · rename_i hrun
      have hheld : (resumeHold l (x.rc t)).isEmpty = false := by
        rw [resumeLater_eq, hrun] at hnow
        simpa [resumeDefers] using hnow
      unfold afterHoldChange
      rw [hr.rc, resumedRc, if_neg (by simp [hheld])]
    · rfl
  have hpay : (if (x.rc t).run = .halted then (x.resumed l t).notifyState t else x.resumed l t).resumePayload t =
      [flagByte (!(resumeHold l (x.rc t)).isEmpty), (resumeHold l (x.rc t)).byte] := by
    unfold resumePayload
    split
    · rw [hr.notifyState.rc]
      rfl
    · rw [hr.rc]
      rfl
  unfold takeResume
  simp only [hremoves', Bool.true_and, hdeferred, hobs, resumeAnswer_eq]
  rw [← hafter] at hpay ⊢
  simp only [← hpay]
  rfl

/-- A RESUME that removes a member and is deferred. -/
theorem takeResume_later (hobs : x.isObserver l = false) (hremoves : (x.rc t).hold.has l ∨ (x.rc t).hold.self)
    (hlater : resumeLater l (x.rc t) = true) (hw : x.windowOpen l = true) :
    x.takeResume l tag t true =
      let y := ((x.resumed l t).joinWindow l tag).modRc t fun r => { r with waiters := r.waiters ++ [{ session := l, tag, kind := .resume }] }
      if (x.rc t).run = .halted then y.afterHoldChange t else y := by
  have hremoves' : ((x.rc t).hold.has l || (x.rc t).hold.self) = true := by simpa using hremoves
  have hdeferred : ((x.holdAfterResume l t).isEmpty && resumeDefers (x.rc t).run) = true := (resumeLater_eq l (x.rc t)).symm.trans hlater
  unfold takeResume
  simp only [hremoves', Bool.true_and, hdeferred, hobs, hw]
  rfl

/-- What follows the waiter of a deferred RESUME: a release, or its deferral, where the target is HALTED. -/
theorem resumeLater_ran (hlater : resumeLater l (x.rc t) = true) :
    let x2 := (x.resumed l t).joinWindow l tag
    let y := x2.modRc t fun r => { r with waiters := r.waiters ++ [{ session := l, tag, kind := .resume }] }
    x2.Ran (if resumeReleases l (x.rc t) (x.acc t) then x2.handRc t .run else x2)
      (if (x.rc t).run = .halted then y.afterHoldChange t else y) t [] (resumeRc l tag (x.acc t) (x.rc t))
      (resumeNotices l t (x.rc t) (x.acc t)) := by
  intro x2 y
  have hfree : (resumeHold l (x.rc t)).isEmpty = true := by
    rw [resumeLater_eq, Bool.and_eq_true] at hlater
    exact hlater.1
  have hrc : x2.rc t = resumedRc l (x.rc t) := (x.resumed_ran l t).rc
  have hacc : x2.acc t = x.acc t := (x.resumed_ran l t).acc t
  have h := (Ran.refl x2 t).modRc fun r => { r with waiters := r.waiters ++ [{ session := l, tag, kind := .resume }] }
  rw [hrc] at h
  have hy : y.afterHoldChange t = if (x.acc t).inFlight then (y.release t).notifyState t else y.release t := by
    unfold afterHoldChange
    rw [h.rc, h.acc, hacc]
    exact if_pos hfree
  by_cases hrun : (x.rc t).run = .halted
  · rw [if_pos hrun, hy]
    cases hfly : (x.acc t).inFlight with
    | true =>
      have hrel : resumeReleases l (x.rc t) (x.acc t) = false := by simp [resumeReleases, hfly]
      have h1 := (h.deferRelease (by rw [hacc]; exact hfly)).notifyState
      rw [if_pos rfl, if_neg (by simp [hrel])]
      exact h1.congr rfl (by simp [resumedRc, resumeRc, hrun, hfree, hlater, hrel, hfly])
        (by simp [resumedRc, resumeNotices, hrun, hrel])
    | false =>
      have hrel : resumeReleases l (x.rc t) (x.acc t) = true := by simp [resumeReleases, hrun, hfree, hfly]
      have h1 := h.release (by rw [hacc]; exact hfly)
      rw [if_neg Bool.false_ne_true, if_pos hrel]
      exact h1.congr rfl (by simp [resumedRc, resumeRc, hrun, hfree, hlater, hrel, hfly])
        (by simp [resumedRc, resumeNotices, hrun, hrel])
  · have hrel : resumeReleases l (x.rc t) (x.acc t) = false := by simp [resumeReleases, hrun]
    rw [if_neg hrun, if_neg (by simp [hrel])]
    exact h.congr rfl (by simp [resumedRc, resumeRc, hrun, hlater, hrel]) (by simp [resumeNotices, hrun])

/-- A RESUME answered at once, before its response. -/
theorem resumeNow_ran (hnow : resumeLater l (x.rc t) = false) :
    x.Ran x (if (x.rc t).run = .halted then (x.resumed l t).notifyState t else x.resumed l t) t (resumeAborts l (x.rc t))
        (resumeRc l tag (x.acc t) (x.rc t)) (resumeNotices l t (x.rc t) (x.acc t)) ∧
      x.Exact (if (x.rc t).run = .halted then (x.resumed l t).notifyState t else x.resumed l t) l
        (x.toWatchers t (resumeNotices l t (x.rc t) (x.acc t)) l) := by
  have h := x.resumed_ran l t
  have hn := resumed_notices l t x
  by_cases hrun : (x.rc t).run = .halted
  · have hheld : (resumeHold l (x.rc t)).isEmpty = false := by
      rw [resumeLater_eq, hrun] at hnow
      simpa [resumeDefers] using hnow
    have hrel : resumeReleases l (x.rc t) (x.acc t) = false := by simp [resumeReleases, hheld]
    have hbody : [stateOf t (resumedRc l (x.rc t))] = resumeNotices l t (x.rc t) (x.acc t) := by
      simp [stateOf, resumedRc, resumeNotices, hrun, hrel]
    have he := h.exact_notified (l := l) hn
    rw [hbody] at he
    rw [if_pos hrun]
    exact ⟨h.notifyState.congr rfl (by simp [resumedRc, resumeRc, hrun, hnow, hrel, hheld]) hbody, he⟩
  · have hrel : resumeReleases l (x.rc t) (x.acc t) = false := by simp [resumeReleases, hrun]
    have hnone : resumeNotices l t (x.rc t) (x.acc t) = [] := by simp [resumeNotices, hrun]
    rw [if_neg hrun, hnone]
    refine ⟨h.congr rfl (by simp [resumedRc, resumeRc, hrun, hnow, hrel]) rfl, ?_⟩
    unfold toWatchers
    rw [ite_self]
    exact Exact.of_notices hn

end

theorem resumeReleases_of_now {l : Index} {r : RunControl} (hnow : resumeLater l r = false) (a : AccessEngine) :
    resumeReleases l r a = false := by
  rw [← Bool.not_eq_true]
  intro hrel
  simp only [resumeReleases, Bool.and_eq_true, beq_iff_eq] at hrel
  rw [resumeLater_eq, hrel.1.1, hrel.1.2] at hnow
  exact absurd hnow (by simp [resumeDefers])

/-- Settles O4: the requester and SELF leave, and the RESUME is answered behind what that causes, or waits. -/
theorem resumeActsByRunState : Obligations.ResumeActsByRunState := by
  unfold Obligations.ResumeActsByRunState
  intro s l t tag h hobs hremoves hw
  have ho := isOpen_of_requestOpen s l tag h
  have hq := s.afterDelivery_quiet l
  have hobs' : (s.afterDelivery l).isObserver l = false := by simpa using hobs
  have htaken : exec (.resume l tag (indexByte t)) s = .next ((s.afterDelivery l).takeResume l tag t true) :=
    congrArg Host.Outcome.next ((s.requestArrives_targeted l t tag (q := .resume (indexByte t) true) h
      (fun hk => absurd hk (show (0x11 : Byte) ∉ Request.deferredKinds by decide)) rfl
      fun _ => rfl).trans (atTarget_indexByte _ t fun i => takeResume l tag i true))
  refine ⟨_, htaken, ?_⟩
  set x := s.afterDelivery l with hx
  cases hlater : resumeLater l (s.rc t) with
  | false =>
    obtain ⟨hr, he⟩ := x.resumeNow_ran l t tag hlater
    rw [takeResume_now x l t tag hobs' hremoves hlater]
    obtain ⟨hmute, htells, hlinks, hreplied⟩ := hr.replies_own hq ho he (resumeAborts_own l (s.rc t)) _
    refine ⟨hmute.trans (congrArg mute ?_), htells, hlinks, (if_neg (by simp [hlater])).mpr hreplied⟩
    have hrel := resumeReleases_of_now hlater (s.acc t)
    unfold resumeEffect
    simp only [hx, afterDelivery_rc, afterDelivery_acc, hlater, hrel, Bool.false_eq_true, if_false]
    rw [leaves_modRc_eq_ran, afterDelivery_rc]
  | true =>
    have hwindow : x.windowOpen l = true := by
      rw [hx, windowOpen_afterDelivery]
      exact hw hlater
    have h1 := x.resumed_ran l t
    have h2 := x.resumeLater_ran l t tag hlater
    have hvoice : (x.resumed l t).Quiet ((x.resumed l t).joinWindow l tag) := (Quiet.refl _).joinWindow l tag
    obtain ⟨htells, hanswered⟩ := h1.behind (resumed_notices l t x) hvoice h2
    obtain ⟨hself, hothers⟩ := (hq.answered hanswered).alone ho (resumeAborts_own l (s.rc t))
    have hheard := hq.tells htells
    rw [takeResume_later x l t tag hobs' hremoves hlater hwindow]
    refine ⟨h2.mute.trans ?_, hheard.others l, hothers, (if_pos hlater).mpr ⟨hself, hheard l⟩⟩
    have hbase : ((x.resumed l t).joinWindow l tag).mute =
        (((x.leaves (resumeAborts l (s.rc t))).joinWindow l tag).modRc t fun _ => resumedRc l (s.rc t)).mute := by
      rw [mute_joinWindow, h1.mute]
      rfl
    have heffect : (x.resumeEffect l tag t) = ((if resumeReleases l (s.rc t) (s.acc t) then
        ((x.leaves (resumeAborts l (s.rc t))).joinWindow l tag).handRc t .run
        else (x.leaves (resumeAborts l (s.rc t))).joinWindow l tag).ran t [] (resumeRc l tag (s.acc t) (s.rc t))) := by
      have hrc : ((x.leaves (resumeAborts l (s.rc t))).joinWindow l tag).rc t = s.rc t := leaves_rc x t _
      unfold resumeEffect
      simp only [hx, afterDelivery_rc, afterDelivery_acc, hlater, if_true]
      rw [modRc_eq_ran, ← hx, hrc]
      split
      · rw [handRc_ran]
      · rfl
    rw [heffect]
    have hrel : resumeReleases l (x.rc t) (x.acc t) = resumeReleases l (s.rc t) (s.acc t) := rfl
    rw [hrel]
    split
    · refine (ran_of_mute (handRc_of_mute hbase t .run) t [] _).trans (congrArg mute ?_)
      rw [modRc_handRc, modRc_eq_ran, ran_ran]
      rfl
    · refine (ran_of_mute hbase t [] _).trans (congrArg mute ?_)
      rw [modRc_eq_ran, ran_ran]
      rfl

end Sys2Proof.Machine.State
end

section
/-! PROOF. STEP and TRESET (R28, R29, R188, R189). -/

namespace Sys2Proof.Machine.State

/-! ### STEP -/

theorem lockedAgainst_iff (r : RunControl) (n : Index) : r.lockedAgainst n = true ↔ ∃ o, r.lock = some o ∧ o ≠ n := by
  unfold RunControl.lockedAgainst
  cases r.lock <;> simp

theorem hasOther_iff (h : HoldSet) (n : Index) : h.hasOther n = true ↔ ∃ m, m ≠ n ∧ h.members.get m = true := by
  simp [HoldSet.hasOther, HoldSet.has, mem_indices]

/-- The checks of R28, as propositions. -/
theorem stepRefusal?_eq (s : State) (l t : Index) (count : Byte) : s.stepRefusal? l t count =
    if count = 0 then some .badOperand
    else if s.role? l = some .observer then some .role
    else if ∃ o, (s.rc t).lock = some o ∧ o ≠ l then some .locked
    else if (s.rc t).run ≠ .halted then some .notHalted
    else if (s.rc t).hold.members.get l = false then some .notHeld
    else if ∃ m, m ≠ l ∧ (s.rc t).hold.members.get m = true then some .heldByOther
    else none := by
  unfold stepRefusal?
  refine if_congr Iff.rfl rfl (if_congr (by simp [isObserver]) rfl (if_congr (lockedAgainst_iff _ l) rfl (if_congr Iff.rfl rfl
    (if_congr (by simp [HoldSet.has]) rfl (if_congr (hasOther_iff _ l) rfl rfl)))))

/-- Settles O12: the record, the STEP and the notice of an accepted STEP, or the first check of R28 that fails. -/
theorem stepStartsSequenceOrIsRefused : Obligations.StepStartsSequenceOrIsRefused := by
  unfold Obligations.StepStartsSequenceOrIsRefused
  have htaken (s : State) (l t : Index) (tag count : Byte) (h : s.requestOpen l tag = true) (hw : s.windowOpen l = true) :
      exec (.step l tag (indexByte t) count) s = .next ((s.afterDelivery l).takeStep l tag t count) :=
    congrArg Host.Outcome.next ((s.requestArrives_targeted l t tag (q := .step (indexByte t) count) h (fun _ => hw) rfl
      fun _ => rfl).trans (atTarget_indexByte _ t fun i => takeStep l tag i count))
  refine ⟨fun s l t tag count h hw hcount hobs hlock hrun hhas hother => ⟨_, htaken s l t tag count h hw, ?_⟩,
    fun s l t tag count st h hw hst => ?_⟩
  · have hrefused : (s.afterDelivery l).stepRefusal? l t count = none := by
      unfold stepRefusal?
      rw [if_neg hcount, if_neg (by simpa using hobs), if_neg (show ¬ ((s.afterDelivery l).rc t).lockedAgainst l = true from hlock),
        if_neg (by simp [hrun]), if_neg (by simp [hhas]), if_neg (show ¬ ((s.afterDelivery l).rc t).hold.hasOther l = true from hother)]
    set x := (s.afterDelivery l).joinWindow l tag with hx
    have hq : s.Quiet x := (s.afterDelivery_quiet l).joinWindow l tag
    have hr := (Ran.refl x t).modRc fun r =>
      { r with hold := r.hold.removeSelf, relDefer := false, stepSeq := some (newSeq l tag count) }
    have hrc : x.rc t = s.rc t := rfl
    rw [hrc] at hr
    set seq : StepSeq :=
      { session := l, tag, requested := count.toNat, done := 0, outstanding := !(s.acc t).inFlight, interrupted := false
        brk := none, aborted := false, discard := false } with hseq
    have hy : x.Ran (if (s.acc t).inFlight then x else x.handRc t .step) ((s.afterDelivery l).takeStep l tag t count) t []
        { s.rc t with run := .stepping, hold := (s.rc t).hold.removeSelf, relDefer := false, stepSeq := some seq }
        [.state t .stepping (s.rc t).hold.removeSelf (s.rc t).lock none] := by
      unfold takeStep
      rw [hrefused]
      dsimp only
      by_cases hfly : (s.acc t).inFlight = true
      · rw [if_pos hfly, if_pos (show ((s.afterDelivery l).acc t).inFlight = true from hfly)]
        exact (hr.setRun .stepping).congr rfl (by simp [hseq, hfly, newSeq]) rfl
      · rw [if_neg hfly, if_neg (show ¬ ((s.afterDelivery l).acc t).inFlight = true from hfly)]
        have h1 := ((hr.handRc .step).modRc fun r => { r with stepSeq := r.stepSeq.map fun q => { q with outstanding := true } }).setRun .stepping
        exact h1.congr rfl (by simp [hseq, hfly, newSeq]) rfl
    have htells := hq.tells hy.tells
    have hanswered := hq.answered hy.answered
    have honly : (s.rc t).hold.removeSelf.isOnly l = true := (HoldSet.isOnly_iff _ l).2 ⟨hhas, Bool.eq_false_iff.2 hother, rfl⟩
    refine ⟨hy.mute.trans (congrArg mute ?_), honly, htells.others l, ⟨hanswered.none l, htells l⟩, fun n _ => hanswered.none n⟩
    simp only
    rw [modRc_eq_ran, handRc_ran]
    split <;> rfl
  · refine completes_of_respondNow h (s.afterDelivery_sameVoice l) ((htaken s l t tag count h hw).trans ?_)
    have hrefused : (s.afterDelivery l).stepRefusal? l t count = some st := by
      rw [stepRefusal?_eq, ← hst, role?_afterDelivery]
      rfl
    unfold takeStep
    rw [hrefused]
    rfl

/-! ### TRESET -/

section

variable {s z y : State} {t : Index} {rs : List Answer} {r : RunControl} {bs : List NoticeBody}

/-- The answer to the access in flight. -/
def flyingAnswer (a : AccessEngine) : List Answer :=
  match a.queue with
  | e :: _ => if e.inFlight then accessAnswer e .targetReset [] else []
  | [] => []

/-- The Access Engine once its access in flight has failed. -/
def groundedAcc (a : AccessEngine) : AccessEngine := if a.inFlight then { a with queue := a.queue.tail, exchange := none } else a

theorem Ran.failInFlight (h : s.Ran z y t rs r bs) :
    s.Ran (z.modAcc t groundedAcc) (y.failInFlight t .targetReset) t (rs ++ flyingAnswer (z.acc t)) r bs := by
  unfold State.failInFlight
  rw [h.acc]
  cases hq : (z.acc t).queue with
  | nil =>
    have hfly : (z.acc t).inFlight = false := by simp [AccessEngine.inFlight, hq]
    rw [if_neg (by simp [hfly]), modAcc_fixed z t (by simp [groundedAcc, hfly])]
    simpa [flyingAnswer, hq] using h
  | cons e rest =>
    by_cases hfly : e.inFlight = true
    · have hfly' : (z.acc t).inFlight = true := by simp [AccessEngine.inFlight, hq, hfly]
      have h1 := (h.modAcc fun a => { a with exchange := none }).failHead (e := e) (rest := rest) (by simp [hq]) .targetReset
      rw [modAcc_modAcc] at h1
      rw [if_pos hfly', modAcc_congr z t (g := fun a => { a with queue := rest, exchange := none }) (by simp [groundedAcc, hfly', hq])]
      simpa [flyingAnswer, hq, hfly] using h1
    · have hfly' : (z.acc t).inFlight = false := by simpa [AccessEngine.inFlight, hq] using hfly
      rw [if_neg (by simp [hfly']), modAcc_fixed z t (by simp [groundedAcc, hfly'])]
      simpa [flyingAnswer, hq, hfly] using h

/-- The answers that a target reset begins with (R188, R189). -/
def tresetAnswers (r : RunControl) (a : AccessEngine) : List Answer :=
  ((r.resetRec.map fun q => resetAnswer q .targetReset []).getD []) ++ flyingAnswer a ++
    ((r.stepSeq.map fun q => seqAnswer r q .targetReset).getD []) ++ allAnswers r .targetReset

/-- The Run Control Unit after a target reset has begun. -/
def tresetRc (l : Index) (tag : Byte) (hold : Nat) (r : RunControl) : RunControl :=
  { r with
    run := .resetting, hold := r.hold.removeSelf, waiters := [], relDefer := false, stopCause := none, stepSeq := none
    resetRec := some { session := l, tag, discard := false, phase := .holding }
    resetTimer := some hold }

theorem Ran.beginReset (h : s.Ran z y t rs r bs) (l : Index) (tag : Byte) :
    s.Ran ((z.modAcc t groundedAcc).modPort t fun p => { p with outstanding := none, sendList := [.rstOn] }) (y.beginReset l tag t) t
      (rs ++ tresetAnswers r (z.acc t)) (tresetRc l tag (z.cfg t).resetHold.toNat r)
      (bs ++ [.state t .resetting r.hold.removeSelf r.lock none]) := by
  have h1 := ((((h.endReset .targetReset []).failInFlight.failSeq .targetReset).answerAll .targetReset).modRc fun r =>
    { r with
      hold := r.hold.removeSelf, relDefer := false, stopCause := none
      resetRec := some { session := l, tag, discard := false, phase := .holding }
      resetTimer := some (z.cfg t).resetHold.toNat })
  have h2 := ((h1.modPort fun p => { p with outstanding := none, sendList := [] }).hand (m := .rstOn) (by simp)).setRun .resetting
  rw [hand_eq _ _ (by simp), modPort_modPort] at h2
  unfold State.beginReset
  simp only [h.cfg]
  refine h2.congr ?_ rfl rfl
  simp only [tresetAnswers, allAnswers, List.append_assoc]
  cases r.stepSeq <;> rfl

end

/-- Settles O53: a DETACHED target refuses, and any other begins the reset. -/
theorem tresetBeginsReset : Obligations.TresetBeginsReset := by
  unfold Obligations.TresetBeginsReset
  intro s l t tag h hw hsup
  have htaken : exec (.treset l tag (indexByte t)) s = .next ((s.afterDelivery l).takeTreset l tag t) :=
    congrArg Host.Outcome.next ((s.requestArrives_targeted l t tag (q := .treset (indexByte t)) h (fun _ => hw) rfl
      fun _ => rfl).trans (atTarget_indexByte _ t fun i => takeTreset l tag i))
  refine ⟨fun hrun => ?_, fun hrun => ⟨_, htaken, ?_⟩⟩
  · exact completes_of_respondNow h (s.afterDelivery_sameVoice l) (htaken.trans (by simp [takeTreset, hsup, hrun, respondPlain]))
  · have htake : (s.afterDelivery l).takeTreset l tag t = ((s.afterDelivery l).joinWindow l tag).beginReset l tag t := by
      simp [takeTreset, hsup, hrun]
    have hr := (Ran.refl ((s.afterDelivery l).joinWindow l tag) t).beginReset l tag
    have hq := (s.afterDelivery_quiet l).joinWindow l tag
    rw [htake]
    refine ⟨hr.mute.trans (congrArg mute ?_), hq.tells hr.tells, hq.answered hr.answered⟩
    rw [leaves_modAcc_eq_ran, modRc_ran, modPort_ran]
    rfl

end Sys2Proof.Machine.State
end

section
/-! PROOF. CONFIG in its setting form (R185, R186): the values, and PORT_ENABLE, which detaches or attaches at once. -/

namespace Sys2Proof.Machine.State

theorem modCfg_fixed (z : State) (t : Index) {f : PortConfig → PortConfig} (h : f (z.cfg t) = z.cfg t) : z.modCfg t f = z := by
  refine (modCfg_congr z t (g := fun c => c) h).trans ?_
  simp [modCfg, modTarget]

/-! ### Items and values (Table 10-1) -/

theorem zero_or_one {value : Byte} (h : value.toNat ≤ 1) : value = 0 ∨ value = 1 := by
  have hv : value.toNat = 0 ∨ value.toNat = 1 := by omega
  exact hv.imp BitVec.eq_of_toNat_eq BitVec.eq_of_toNat_eq

theorem flagByte_ne_zero {value : Byte} (h : value.toNat ≤ 1) : flagByte (value != 0) = value := by
  rcases zero_or_one h with rfl | rfl <;> rfl

theorem configValue_iff (item value : Byte) :
    configValue item value = true ↔ if item.toNat ≤ 4 then value ≠ 0 else value.toNat ≤ 1 := by
  unfold configValue
  split <;> simp

/-- The value held sets nothing. -/
theorem withValue_value (c : PortConfig) (item : Byte) : c.withValue item (c.value item) = c := by
  have hflag (b : Bool) : (flagByte b != 0) = b := by cases b <;> rfl
  unfold PortConfig.withValue PortConfig.value
  split_ifs
  · rfl
  · rfl
  · rfl
  · rfl
  · rfl
  · rw [hflag]
  · rw [hflag]

/-- An item has the value that it is set to. -/
theorem value_withValue (c : PortConfig) {item value : Byte} (h : configValue item value = true) :
    (c.withValue item value).value item = value := by
  have hflag (h4 : 4 < item.toNat) : flagByte (value != 0) = value :=
    flagByte_ne_zero (by simpa [Nat.not_le.2 h4] using (configValue_iff item value).1 h)
  unfold PortConfig.withValue PortConfig.value
  split_ifs with h0 h1 h2 h3 h4 h5
  · rfl
  · rfl
  · rfl
  · rfl
  · rfl
  · exact hflag (by rw [h5]; decide)
  · exact hflag (by bv_omega)

/-! ### The setting form at the Port Configuration Store -/

section

variable {x : State} {l t : Index} (tag : Byte) {item value : Byte}

theorem takeConfigSet_of_bad (hbad : configItem item = false ∨ x.isSupervisor l = true ∧ configValue item value = false) :
    x.takeConfigSet l tag t item value = x.respondNow l { tag, status := .badOperand, kind := 0x50, payload := [] } := by
  have hrefused : x.configRefusal? l item value = some .badOperand := by
    unfold configRefusal?
    rcases hbad with hitem | ⟨hsup, hvalue⟩
    · simp [hitem]
    · simp [hsup, hvalue]
  unfold takeConfigSet
  rw [hrefused]
  rfl

variable (hsup : x.isSupervisor l = true) (hitem : item.toNat ≤ 6) (hvalue : configValue item value = true)

include hsup hitem hvalue

theorem configRefusal?_of_passed : x.configRefusal? l item value = none := by
  simp [configRefusal?, hsup, configItem, hitem, hvalue]

theorem takeConfigSet_of_same (hsame : (x.cfg t).value item = value) : x.takeConfigSet l tag t item value =
    x.respondNow l { tag, status := .ok, kind := 0x50, payload := [item, value] } := by
  unfold takeConfigSet
  rw [configRefusal?_of_passed hsup hitem hvalue]
  simp only [hsame, if_true]

theorem takeConfigSet_of_changed (hne : (x.cfg t).value item ≠ value) {y : State}
    (hy : (x.modCfg t fun c => c.withValue item value).configChanged t item value = y) (hcfg : y.cfg t = (x.cfg t).withValue item value) :
    x.takeConfigSet l tag t item value = y.respondNow l { tag, status := .ok, kind := 0x50, payload := [item, value] } := by
  unfold takeConfigSet
  rw [configRefusal?_of_passed hsup hitem hvalue]
  simp only [if_neg hne, hy, hcfg, value_withValue _ hvalue]

/-- Any item but PORT_ENABLE is replaced, and nothing else changes. -/
theorem takeConfigSet_of_value (hsix : item ≠ 6) : x.takeConfigSet l tag t item value =
    (x.modCfg t fun c => c.withValue item value).respondNow l { tag, status := .ok, kind := 0x50, payload := [item, value] } := by
  by_cases hsame : (x.cfg t).value item = value
  · rw [takeConfigSet_of_same tag hsup hitem hvalue hsame, modCfg_fixed x t (by rw [← hsame, withValue_value])]
  · exact takeConfigSet_of_changed tag hsup hitem hvalue hsame (if_neg hsix) (by simp)

end

/-! ### PORT_ENABLE (R186) -/

/-- A detach before its STATE notice. -/
def detached (t : Index) (k : LinkState) (y : State) : State :=
  ((((((y.idlePort t k).modRc t fun r => { r with run := .detached, relDefer := false, stopCause := none }).endReset t .detached []).answerAll
    t .detached).failSeq t .detached).failAllAccesses t .detached)

theorem detached_notices (t : Index) (k : LinkState) (y : State) : (y.detached t k).notices = y.notices := by
  unfold detached answerAll
  rw [failAllAccesses_notices, failSeq_notices, answerWaiters_notices, endReset_notices]
  rfl

/-- While a response waits, a detach leaves the very entries that its STATE notice gives. -/
theorem Ran.exact_detach {x y z : State} {t : Index} {k : LinkState} {rs : List Answer} {r : RunControl} {bs : List NoticeBody}
    (h : x.Ran z (y.detach t k) t rs r bs) (hn : y.notices = x.notices) (l : Index) :
    x.Exact (y.detach t k) l (x.toWatchers t [stateOf t r] l) := by
  have hmute : (y.detach t k).mute = (y.detached t k).mute := mute_notifyState _ t
  have he := (Exact.of_notices (l := l) ((detached_notices t k y).trans hn)).notifyState t
  rw [stateBody_of_ran (hmute.symm.trans h.mute), List.nil_append, toWatchers, watches_of_mute hmute.symm, h.watches] at he
  exact he

theorem SameVoice.modTarget {s x : State} {l : Index} (h : s.SameVoice x l) (t : Index) (f : Target → Target) :
    s.SameVoice (x.modTarget t f) l := ⟨h.respQ, h.links, h.notices, h.isOpen⟩

/-- PORT_ENABLE set off, before its consequence. -/
def portOff (t : Index) (x : State) : State := x.modCfg t fun c => { c with portEnable := false }

/-- PORT_ENABLE set on, before its consequence. -/
def portOn (t : Index) (x : State) : State := x.modCfg t fun c => { c with portEnable := true }

/-- PORT_ENABLE set on, with its consequence. -/
def enabled (t : Index) (x : State) : State :=
  if (x.port t).present then (portOn t x).modPort t (attached (x.cfg t) (x.demand t))
  else (portOn t x).modPort t fun p => { p with link := .absent }

section

variable {x : State} {t : Index}

theorem enabled_cfg : (enabled t x).cfg t = (x.cfg t).withValue 6 1 := by
  have hon : (portOn t x).cfg t = (x.cfg t).withValue 6 1 := modCfg_cfg_self ..
  unfold enabled
  split
  · rw [modPort_cfg, hon]
  · rw [modPort_cfg, hon]

theorem SameVoice.enabled {s : State} {l : Index} (h : s.SameVoice x l) : s.SameVoice (State.enabled t x) l := by
  unfold State.enabled
  split
  · exact (h.modTarget t _).modTarget t _
  · exact (h.modTarget t _).modTarget t _

theorem configChanged_off_of_idle (hlink : (x.port t).link ≠ .active) :
    (x.modCfg t fun c => c.withValue 6 0).configChanged t 6 0 = (portOff t x).idlePort t .disabled := by
  show (portOff t x).loseTarget t .disabled = _
  have hport : (portOff t x).port t = x.port t := by simp [portOff]
  unfold loseTarget
  rw [hport]
  cases hl : (x.port t).link with
  | active => exact absurd hl hlink
  | probing => rfl
  | absent => rfl
  | disabled => rfl

theorem configChanged_off_of_active (hlink : (x.port t).link = .active) :
    (x.modCfg t fun c => c.withValue 6 0).configChanged t 6 0 = (portOff t x).detach t .disabled := by
  show (portOff t x).loseTarget t .disabled = _
  have hport : (portOff t x).port t = x.port t := by simp [portOff]
  unfold loseTarget
  rw [hport, hlink]

/-- PORT_ENABLE set on attaches the target that is there. -/
theorem configChanged_on : (x.modCfg t fun c => c.withValue 6 1).configChanged t 6 1 = enabled t x := by
  unfold enabled
  have hdemand : (portOn t x).demand t = x.demand t := demand_congr (by simp [portOn]) t
  have hattach : (portOn t x).attach t = (portOn t x).modPort t (attached (x.cfg t) (x.demand t)) := by
    rw [attach_eq, hdemand]
    refine modPort_congr _ t ?_
    simp [portOn, attached]
  show (if ((portOn t x).port t).present then (portOn t x).attach t else (portOn t x).modPort t fun p => { p with link := .absent }) = _
  rw [hattach]
  simp [portOn]

end

/-- The Run Control Unit after a detach. -/
def detachedRc (r : RunControl) : RunControl :=
  { r with
    run := .detached, waiters := [], relDefer := false, stopCause := none, stepSeq := none, resetRec := none
    resetTimer := if r.resetRec.isSome then none else r.resetTimer }

section

variable (x : State) (t : Index)

theorem portOff_cfg : (portOff t x).cfg t = (x.cfg t).withValue 6 0 := modCfg_cfg_self ..

theorem portOff_rc : (portOff t x).rc t = x.rc t := by simp [portOff]

theorem portOff_detachAnswers : (portOff t x).detachAnswers t = x.detachAnswers t := by
  have hacc : (portOff t x).acc t = x.acc t := by simp [portOff]
  unfold detachAnswers
  rw [portOff_rc, hacc]

/-- The detach that PORT_ENABLE off gives an ACTIVE target. -/
theorem portOff_detach_ran :
    x.Ran (((portOff t x).idlePort t .disabled).modAcc t fun a => { a with queue := [], exchange := none })
      ((portOff t x).detach t .disabled) t (x.detachAnswers t) (detachedRc (x.rc t))
      [.state t .detached (x.rc t).hold (x.rc t).lock none] := by
  have h : x.Ran _ ((portOff t x).detach t .disabled) t _ _ _ :=
    (Ran.start (s := x) (t := t) (z := portOff t x) rfl rfl rfl).detach .disabled
  exact h.congr (portOff_detachAnswers x t) (congrArg detachedRc (portOff_rc x t)) (by rw [portOff_rc]; rfl)

theorem portOff_detachedEntry : (portOff t x).detachedEntry t .disabled =
    (((portOff t x).idlePort t .disabled).modAcc t fun a => { a with queue := [], exchange := none }).ran t (x.detachAnswers t)
      (detachedRc (x.rc t)) := by
  rw [detachedEntry_eq_ran, portOff_detachAnswers, portOff_rc]
  rfl

end

/-- Settles O52: the checks, the value and its consequence. -/
theorem configSetActs : Obligations.ConfigSetActs := by
  unfold Obligations.ConfigSetActs
  have htaken (s : State) (l t : Index) (tag item value : Byte) (h : s.requestOpen l tag = true) :
      exec (.configSet l tag (indexByte t) item value) s = .next ((s.afterDelivery l).takeConfigSet l tag t item value) :=
    congrArg Host.Outcome.next ((s.requestArrives_targeted l t tag (q := .configSet (indexByte t) item value) h
      (fun hk => absurd hk (show (0x50 : Byte) ∉ Request.deferredKinds by decide)) rfl
      fun _ => rfl).trans (atTarget_indexByte _ t fun i => takeConfigSet l tag i item value))
  refine ⟨fun s l t tag item value h => ?_, fun s l t tag h hsup => ?_⟩
  · have hvoice := s.afterDelivery_sameVoice l
    have hbad (hb : configItem item = false ∨ (s.afterDelivery l).isSupervisor l = true ∧ configValue item value = false) :=
      completes_of_respondNow h hvoice ((htaken s l t tag item value h).trans (congrArg Host.Outcome.next (takeConfigSet_of_bad tag hb)))
    have hset (hsup : s.isSupervisor l = true) (hitem : item.toNat ≤ 6) (hvalue : configValue item value = true) (hsix : item ≠ 6) :=
      completes_of_respondNow (x := (s.afterDelivery l).modCfg t fun c => c.withValue item value) h (hvoice.modTarget t _)
        ((htaken s l t tag item value h).trans (congrArg Host.Outcome.next
          (takeConfigSet_of_value tag (by simpa using hsup) hitem hvalue hsix)))
    refine ⟨fun hitem => hbad (.inl (by simp [configItem, hitem])), fun hsup hrange => hbad (.inr ⟨by simpa using hsup, ?_⟩),
      fun hsup hrange => ⟨?_, ?_, ?_, ?_, ?_, ?_, ?_⟩⟩
    · exact Bool.eq_false_iff.2 (mt (configValue_iff item value).1 hrange)
    all_goals have hvalue := (configValue_iff item value).2 hrange
    · rintro rfl
      exact hset hsup (by decide) hvalue (by decide)
    · rintro rfl
      exact hset hsup (by decide) hvalue (by decide)
    · rintro rfl
      exact hset hsup (by decide) hvalue (by decide)
    · rintro rfl
      exact hset hsup (by decide) hvalue (by decide)
    · rintro rfl
      exact hset hsup (by decide) hvalue (by decide)
    · rintro rfl
      have h5 := hset hsup (by decide) hvalue (by decide)
      have hflag : (fun c : PortConfig => c.withValue 5 value) = fun c => { c with intrusive := value = 1 } := by
        have hone : (value != 0) = decide (value = 1) := by
          rcases zero_or_one (by simpa using hrange) with rfl | rfl <;> rfl
        funext c
        show ({ c with intrusive := value != 0 } : PortConfig) = _
        rw [hone]
      rw [hflag] at h5
      exact h5
    · rintro rfl hsame
      exact completes_of_respondNow h hvoice ((htaken s l t tag 6 value h).trans (congrArg Host.Outcome.next
        (takeConfigSet_of_same tag (by simpa using hsup) (by decide) hvalue hsame.symm)))
  · have hvoice := s.afterDelivery_sameVoice l
    have hsup' : (s.afterDelivery l).isSupervisor l = true := by simpa using hsup
    refine ⟨fun hon => ?_, fun hoff => ?_⟩
    · have hne : ((s.afterDelivery l).cfg t).value 6 ≠ 0 := by simp [PortConfig.value, hon, flagByte]
      refine ⟨fun hlink => ?_, fun hlink => ⟨_, htaken s l t tag 6 0 h, ?_⟩⟩
      · exact completes_of_respondNow (x := (portOff t (s.afterDelivery l)).idlePort t .disabled) h
          ((hvoice.modTarget t _).modTarget t _) ((htaken s l t tag 6 0 h).trans (congrArg Host.Outcome.next
            (takeConfigSet_of_changed tag hsup' (by decide) (by decide) hne (configChanged_off_of_idle hlink)
              ((modPort_cfg ..).trans (portOff_cfg _ t)))))
      · have hran := portOff_detach_ran (s.afterDelivery l) t
        have htake := takeConfigSet_of_changed tag hsup' (by decide) (by decide) hne (configChanged_off_of_active hlink) (by
          rw [hran.cfg]
          simp only [modAcc_cfg, idlePort, modPort_cfg, portOff_cfg])
        rw [htake]
        have hreplies := hran.replies (s.afterDelivery_quiet l) (isOpen_of_requestOpen s l tag h) (hran.exact_detach rfl l)
          { tag, status := .ok, kind := 0x50, payload := [6, 0] }
        obtain ⟨hmute, hothers, hlinks, hreplied⟩ := hreplies
        exact ⟨hmute.trans (congrArg mute (portOff_detachedEntry _ t).symm), hothers, hlinks, hreplied⟩
    · have hne : ((s.afterDelivery l).cfg t).value 6 ≠ 1 := by simp [PortConfig.value, hoff, flagByte]
      have hdemand : (s.afterDelivery l).demand t = s.demand t := demand_congr (fun _ => rfl) t
      have htake := takeConfigSet_of_changed tag hsup' (by decide) (by decide) hne configChanged_on enabled_cfg
      refine ⟨_, (htaken s l t tag 6 1 h).trans (congrArg Host.Outcome.next htake), ?_⟩
      obtain ⟨hmute, hsilent, hreplied⟩ := respondNow_of_sameVoice { tag, status := .ok, kind := 0x50, payload := [6, 1] }
        (hvoice.enabled (t := t)) (isOpen_of_requestOpen s l tag h)
      refine ⟨hsilent, hreplied, hmute.trans (congrArg mute ?_)⟩
      unfold enabled
      rw [hdemand]
      rfl

end Sys2Proof.Machine.State
end

section
/-! PROOF. The lowest free handle, the comparator that binding chooses, and what deletion does to the banks (R44, R47, R49, R50). -/

namespace Sys2Proof.Machine

/-! ### The first element of an ascending list -/

/-- In a strictly ascending list `find?` gives the least element with the property. -/
theorem find?_eq_some_iff_least {n : Nat} {p : Fin n → Bool} {l : List (Fin n)} (hl : l.Pairwise (· < ·)) (a : Fin n) :
    l.find? p = some a ↔ a ∈ l ∧ p a = true ∧ ∀ b ∈ l, b < a → p b = false := by
  induction l with
  | nil => simp
  | cons x xs ih =>
    obtain ⟨hx, hxs⟩ := List.pairwise_cons.1 hl
    cases hp : p x with
    | true =>
      rw [List.find?_cons_of_pos hp]
      constructor
      · rintro ⟨⟩
        refine ⟨List.mem_cons_self, hp, fun b hb hlt => ?_⟩
        rcases List.mem_cons.1 hb with rfl | hb
        · exact absurd hlt (lt_irrefl _)
        · exact absurd hlt (lt_asymm (hx b hb))
      · rintro ⟨ha, -, hleast⟩
        rcases List.mem_cons.1 ha with rfl | ha
        · rfl
        · have hfalse := hleast x List.mem_cons_self (hx a ha)
          rw [hp] at hfalse
          cases hfalse
    | false =>
      rw [List.find?_cons_of_neg (by simp [hp]), ih hxs]
      constructor
      · rintro ⟨ha, hpa, hleast⟩
        refine ⟨List.mem_cons_of_mem _ ha, hpa, fun b hb hlt => ?_⟩
        rcases List.mem_cons.1 hb with rfl | hb
        · exact hp
        · exact hleast b hb hlt
      · rintro ⟨ha, hpa, hleast⟩
        have hne : a ≠ x := by
          rintro rfl
          rw [hp] at hpa
          cases hpa
        exact ⟨(List.mem_cons.1 ha).resolve_left hne, hpa, fun b hb => hleast b (List.mem_cons_of_mem _ hb)⟩

theorem indices_ascending : indices.Pairwise (· < ·) := by decide

theorem mem_eligible (cond : Option DataCond) (c : Index) : c ∈ eligible cond ↔ (cond.isNone || decide (2 ≤ c.val)) = true := by
  cases cond with
  | none =>
    show c ∈ indices ↔ _
    simp
  | some d =>
    simp only [eligible, Option.isNone_some, Bool.false_or, decide_eq_true_eq]
    fin_cases c <;> decide

theorem eligible_ascending (cond : Option DataCond) : (eligible cond).Pairwise (· < ·) := by
  cases cond with
  | none => exact indices_ascending
  | some d =>
    show ([2, 3] : List Index).Pairwise (· < ·)
    decide

/-! ### Handles (R41) -/

namespace State

theorem record?_eq_none (s : State) (h : Handle) : s.record? h = none ↔ ∀ x ∈ s.records, x.handle ≠ h := by
  simp [record?]

theorem record?_ne_none (s : State) (h : Handle) : (s.record? h).isNone = false ↔ ∃ x ∈ s.records, x.handle = h := by
  rw [← Bool.not_eq_true, Option.isNone_iff_eq_none, record?_eq_none]
  simp

theorem freeHandle?_iff (s : State) (h : Handle) :
    s.freeHandle? = some h ↔ (∀ x ∈ s.records, x.handle ≠ h) ∧ ∀ g, g < h → ∃ x ∈ s.records, x.handle = g := by
  unfold freeHandle? handles
  rw [find?_eq_some_iff_least (List.pairwise_lt_finRange 32)]
  simp only [List.mem_finRange, true_and, true_implies, Option.isNone_iff_eq_none, record?_eq_none, record?_ne_none]

theorem freeHandle?_eq_none (s : State) : s.freeHandle? = none ↔ ∀ g : Handle, ∃ x ∈ s.records, x.handle = g := by
  unfold freeHandle? handles
  simp only [List.find?_eq_none, List.mem_finRange, true_implies, Bool.not_eq_true, record?_ne_none]

end State

/-! ### Comparators (R49, R50) -/

section

variable (bank : Quad Comparator) (m : MatchSpec)

/-- Comparator `c` is bound to the very specification. -/
def sharesSpec (c : Index) : Bool := !(bank.get c).subs.isEmpty && (bank.get c).spec == some m

theorem bindTo?_eq : bindTo? bank m =
    ((indices.find? (sharesSpec bank m)).map (·, true)).or (((eligible m.cond).find? fun c => (bank.get c).subs.isEmpty).map (·, false)) := by
  unfold bindTo? sharesSpec
  split
  · rename_i c hc
    rw [hc]
    rfl
  · rename_i hnone
    rw [hnone]
    split
    · rename_i c hc
      rw [hc]
      rfl
    · rename_i hfree
      rw [hfree]
      rfl

theorem bindTo?_shared (c : Index) : bindTo? bank m = some (c, true) ↔
    sharesSpec bank m c = true ∧ ∀ d, d < c → sharesSpec bank m d = false := by
  rw [bindTo?_eq]
  have h := find?_eq_some_iff_least (p := sharesSpec bank m) indices_ascending c
  simp only [mem_indices, true_and, true_implies] at h
  rw [← h]
  cases indices.find? (sharesSpec bank m) with
  | none => simp
  | some d => simp

theorem find?_sharesSpec_eq_none : indices.find? (sharesSpec bank m) = none ↔ ∀ d, sharesSpec bank m d = false := by
  simp

theorem bindTo?_free (c : Index) : bindTo? bank m = some (c, false) ↔ (∀ d, sharesSpec bank m d = false) ∧
    (bank.get c).subs.isEmpty = true ∧ c ∈ eligible m.cond ∧ ∀ d ∈ eligible m.cond, d < c → (bank.get d).subs.isEmpty = false := by
  rw [bindTo?_eq, ← find?_sharesSpec_eq_none]
  have h := find?_eq_some_iff_least (p := fun c => (bank.get c).subs.isEmpty) (eligible_ascending m.cond) c
  cases hs : indices.find? (sharesSpec bank m) with
  | none =>
    simp only [Option.map_none, Option.none_or, Option.map_eq_some_iff, Prod.mk.injEq, and_true, exists_eq_right, h, true_and]
    tauto
  | some d => simp

theorem bindTo?_eq_none : bindTo? bank m = none ↔ (∀ d, sharesSpec bank m d = false) ∧
    ∀ c ∈ eligible m.cond, (bank.get c).subs.isEmpty = false := by
  rw [bindTo?_eq, ← find?_sharesSpec_eq_none]
  simp

end

/-- Settles O15: each is the first of an ascending list. -/
theorem handleAndComparatorChosen : Obligations.HandleAndComparatorChosen := by
  unfold Obligations.HandleAndComparatorChosen
  refine ⟨fun s h => ⟨s.freeHandle?_iff h, s.freeHandle?_eq_none⟩, fun bank m => ?_⟩
  have hsame (c : Index) : (!(bank.get c).subs.isEmpty && decide ((bank.get c).spec = some m)) = sharesSpec bank m c := by
    rw [Bool.eq_iff_iff]
    simp [sharesSpec]
  have hfree (c : Index) : ((bank.get c).subs.isEmpty && (m.cond.isNone || decide (2 ≤ c.val))) = true ↔
      (bank.get c).subs.isEmpty = true ∧ c ∈ eligible m.cond := by
    rw [Bool.and_eq_true, mem_eligible]
  simp only [hsame, hfree]
  refine ⟨fun c => ?_, fun c => ?_, ?_⟩
  · simp [bindTo?_shared]
  · rw [bindTo?_free]
    simp only [Bool.not_eq_true, not_and_or]
    refine and_congr Iff.rfl ?_
    rw [and_assoc]
    refine and_congr Iff.rfl (and_congr Iff.rfl (forall_congr' fun d => ?_))
    simp only [← Bool.not_eq_true]
    tauto
  · rw [bindTo?_eq_none]
    simp only [← Bool.not_eq_true, forall_and]
    refine and_congr Iff.rfl (forall_congr' fun d => ?_)
    tauto

/-! ### Deletion (R44) -/

namespace State

theorem bank_dropRecord (s : State) (h : Handle) (hh : (s.record? h).isSome = true) (t c : Index) :
    ((s.dropRecord h).bank t).get c = if (((s.bank t).get c).subs.filter fun g => g != h) = [] then { spec := none, subs := [] }
      else { spec := ((s.bank t).get c).spec, subs := ((s.bank t).get c).subs.filter fun g => g != h } := by
  have hdead (g : Handle) : (s.records.any fun r => r.handle == g && r.handle == h) = (g == h) := by
    obtain ⟨x, hx⟩ := Option.isSome_iff_exists.1 hh
    obtain ⟨hmem, rfl⟩ := s.record?_eq_some h hx
    rw [Bool.eq_iff_iff]
    simp only [List.any_eq_true, Bool.and_eq_true, beq_iff_eq]
    exact ⟨fun ⟨r, _, hg, hr⟩ => hg.symm.trans hr, fun hg => ⟨x, hmem, hg.symm, rfl⟩⟩
  unfold dropRecord
  rw [bank_dropRecords]
  simp only [hdead]
  unfold Comparator.drop
  simp only [List.isEmpty_iff]
  rfl

/-- Settles O18: the table and the banks alone change. -/
theorem deletionFreesComparator : Obligations.DeletionFreesComparator := by
  unfold Obligations.DeletionFreesComparator
  intro s h hh
  have htargets (t : Index) : (s.dropRecord h).rc t = s.rc t ∧ (s.dropRecord h).acc t = s.acc t ∧ (s.dropRecord h).port t = s.port t ∧
      (s.dropRecord h).cfg t = s.cfg t := by simp [dropRecord]
  exact ⟨rfl, s.bank_dropRecord h hh, htargets, rfl, rfl, rfl, rfl, rfl⟩

end State

end Sys2Proof.Machine
end

section
/-! PROOF. SETBRK: the data condition that waits on the link, the checks of R47 in their order, and the new record (R47 to R51, R151). -/

namespace Sys2Proof.Machine

/-! ### The fields of a SETBRK (check 1 of R47) -/

section

variable {mode : Byte} {cond : Option DataCond}

theorem setbrkFields?_of_defined {k : BrkKind} {a : Action} (hk : modeKind? mode = some k) (ha : modeAction? mode = some a)
    (hres : modeReserved mode = false) (hcond : cond.isSome → k ≠ .fetch ∧ k ≠ .any) : setbrkFields? mode cond = some (k, a) := by
  have hgood : (modeReserved mode || (cond.isSome && (k == .fetch || k == .any))) = false := by
    rw [hres, Bool.false_or, Bool.and_eq_false_imp]
    exact fun hc => by simp [hcond hc]
  unfold setbrkFields?
  rw [hk, ha]
  simp [hgood]

theorem setbrkFields?_eq_none (h : modeKind? mode = none ∨ modeAction? mode = none ∨ modeReserved mode ∨
    cond.isSome ∧ (modeKind? mode = some .fetch ∨ modeKind? mode = some .any)) : setbrkFields? mode cond = none := by
  unfold setbrkFields?
  split
  · rename_i k a hk ha
    refine if_pos ?_
    simpa [hk, ha] using h
  · rfl

end

namespace State

/-! ### The data condition on the link (R151) -/

/-- The data condition of a SETBRK that names one. -/
def setbrkCond (s : State) (l : Index) (mode : Byte) : Option DataCond := if modeDataFlag mode then (s.link l).pendingData else none

/-- The pending data condition is consumed. -/
def condUsed (l : Index) (x : State) : State := x.modLink l fun u => { u with pendingData := none }

section

variable {s x : State} {l : Index}

theorem SameVoice.pending (h : s.SameVoice x l) (d : Option DataCond) :
    s.SameVoice (x.modLink l fun u => { u with pendingData := d }) l where
  respQ := by simpa using h.respQ
  links n hn := (modLink_link_of_ne x _ hn).trans (h.links n hn)
  notices := h.notices
  isOpen := h.isOpen

theorem pendingData_afterFrame (s : State) (l : Index) : ((s.afterFrame l).link l).pendingData = (s.link l).pendingData := by
  simp [afterFrame, restartLease]

/-- A SETBRK in its match form is routed at once. -/
theorem setbrk_routed (s : State) (l t : Index) (tag mode : Byte) (address mask : Addr) (passes : Half) (h : s.requestOpen l tag = true) :
    s.requestArrives l tag (.setbrk (indexByte t) mode address mask passes) =
      (s.afterFrame l).route l tag (.setbrk (indexByte t) mode address mask passes) :=
  s.requestArrives_of_open l tag _ h fun hk => absurd hk (show (0x20 : Byte) ∉ Request.deferredKinds by decide)

theorem condUsed_fixed (h : (x.link l).pendingData = none) : condUsed l x = x := by
  have hu : x.modLink l (fun u => { u with pendingData := none }) = x.modLink l fun u => u :=
    modLink_congr x l (by cases hl : x.link l; simp_all)
  unfold condUsed
  rw [hu]
  simp [modLink]

/-- A match form whose condition is there goes to the Breakpoint Table at once. -/
theorem setbrk_taken {t : Index} {tag mode : Byte} (address mask : Addr) (passes : Half) (h : s.requestOpen l tag = true)
    (hcond : modeDataFlag mode → (s.setbrkCond l mode).isSome) :
    s.requestArrives l tag (.setbrk (indexByte t) mode address mask passes) =
      (condUsed l (s.afterDelivery l)).takeSetbrk l tag t mode address mask passes (s.setbrkCond l mode) := by
  have hroute : (s.afterFrame l).route l tag (.setbrk (indexByte t) mode address mask passes) =
      (condUsed l (s.afterFrame l)).handOver l tag (.setbrk (indexByte t) mode address mask passes) (s.setbrkCond l mode) := by
    unfold setbrkCond at hcond ⊢
    unfold route
    simp only [pendingData_afterFrame]
    by_cases hd : modeDataFlag mode = true
    · obtain ⟨d, hd'⟩ := Option.isSome_iff_exists.1 (hcond hd)
      rw [if_pos hd] at hd'
      rw [if_pos hd, if_pos hd, hd']
      rfl
    · rw [if_neg hd, if_neg hd]
      rfl
  obtain ⟨-, hrouted, hdelay⟩ := (s.requestReady_iff l).1 ((s.requestOpen_iff l tag).1 h).1
  have hidle : ((condUsed l (s.afterFrame l)).link l).routed = none := by simpa [condUsed, afterFrame, restartLease] using hrouted
  rw [setbrk_routed s l t tag mode address mask passes h, hroute,
    handOver_of_target _ l t tag _ _ rfl, deliver_of_ready (condUsed l (s.afterFrame l)) l tag _ _ hidle hdelay]
  exact atTarget_indexByte _ t fun i => takeSetbrk l tag i mode address mask passes (s.setbrkCond l mode)

end

/-! ### The checks of R47 -/

section

variable {s x : State} {l n t : Index} {tag mode : Byte} {address mask : Addr} {cond : Option DataCond} {k : BrkKind} {a : Action}

theorem setbrkVerdict_of_badFields (hf : setbrkFields? mode cond = none) :
    s.setbrkVerdict n t mode address mask cond = .inl .badOperand := by
  unfold setbrkVerdict
  rw [hf]

variable (hf : setbrkFields? mode cond = some (k, a))

include hf

theorem setbrkVerdict_of_role (ho : s.isObserver n = true) (ha : a ≠ .notify) :
    s.setbrkVerdict n t mode address mask cond = .inl .role := by
  unfold setbrkVerdict
  rw [hf]
  simp [ho, ha]

variable (ho : s.isObserver n = true → a = .notify)

include ho

omit hf in
theorem roleCheck_passed : (s.isObserver n && a != .notify) = false := by
  rw [Bool.and_eq_false_imp]
  exact fun h => by simp [ho h]

theorem setbrkVerdict_of_tableFull (hh : s.freeHandle? = none) : s.setbrkVerdict n t mode address mask cond = .inl .tableFull := by
  unfold setbrkVerdict
  rw [hf, hh]
  simp [roleCheck_passed ho]

theorem setbrkVerdict_of_noComparator {h : Handle} (hh : s.freeHandle? = some h)
    (hb : bindTo? (s.bank t) (setbrkSpec k address mask cond) = none) :
    s.setbrkVerdict n t mode address mask cond = .inl .noComparator := by
  unfold setbrkVerdict
  rw [hf, hh]
  simp [roleCheck_passed ho, hb]

theorem setbrkVerdict_of_bound {h : Handle} {c : Index} {shared : Bool} (hh : s.freeHandle? = some h)
    (hb : bindTo? (s.bank t) (setbrkSpec k address mask cond) = some (c, shared)) :
    s.setbrkVerdict n t mode address mask cond = .inr (k, a, h, c, shared) := by
  unfold setbrkVerdict
  rw [hf, hh]
  simp [roleCheck_passed ho, hb]

end

/-- The first check of R47 that fails gives the status. -/
theorem setbrkVerdict_of_refused {s : State} {n t : Index} {mode : Byte} {address mask : Addr} {cond : Option DataCond} {st : Status}
    (h : (if modeKind? mode = none ∨ modeAction? mode = none ∨ modeReserved mode ∨
          cond.isSome ∧ (modeKind? mode = some .fetch ∨ modeKind? mode = some .any) then some Status.badOperand
        else if s.isObserver n ∧ modeAction? mode ≠ some .notify then some .role
        else if ∀ g : Handle, (s.record? g).isSome then some .tableFull
        else if ∀ k, modeKind? mode = some k → bindTo? (s.bank t) (setbrkSpec k address mask cond) = none then some .noComparator
        else none) = some st) : s.setbrkVerdict n t mode address mask cond = .inl st := by
  split_ifs at h with hbad hrole hfull hbank
  all_goals obtain rfl := Option.some.inj h
  · exact setbrkVerdict_of_badFields (setbrkFields?_eq_none hbad)
  all_goals
    simp only [not_or] at hbad
    obtain ⟨hkind, haction, hres, hcond⟩ := hbad
    obtain ⟨k, hk⟩ := Option.ne_none_iff_exists'.1 hkind
    obtain ⟨a, ha⟩ := Option.ne_none_iff_exists'.1 haction
    have hf : setbrkFields? mode cond = some (k, a) := setbrkFields?_of_defined hk ha (by simpa using hres) fun hc =>
      ⟨fun hfetch => hcond ⟨hc, .inl (hfetch ▸ hk)⟩, fun hany => hcond ⟨hc, .inr (hany ▸ hk)⟩⟩
  · exact setbrkVerdict_of_role hf hrole.1 fun hnotify => hrole.2 (hnotify ▸ ha)
  all_goals
    have ho (hobs : s.isObserver n = true) : a = .notify := by
      by_contra hne
      exact hrole ⟨hobs, fun h => hne (Option.some.inj (ha.symm.trans h))⟩
  · refine setbrkVerdict_of_tableFull hf ho ((freeHandle?_eq_none s).2 fun g => ?_)
    exact (record?_ne_none s g).1 (by simpa using hfull g)
  · obtain ⟨h', hh⟩ : ∃ h', s.freeHandle? = some h' := by
      refine Option.ne_none_iff_exists'.1 fun hnone => hfull fun g => ?_
      have hg := (record?_ne_none s g).2 ((freeHandle?_eq_none s).1 hnone g)
      simpa using hg
    exact setbrkVerdict_of_noComparator hf ho hh (hbank k hk)

/-! ### The new record -/

theorem demand_bindRecord (s : State) (x : Record) : (s.bindRecord x).demand x.target = true := by
  refine ((s.bindRecord x).demand_iff x.target).2 ⟨x.comparator, ?_⟩
  rw [bank_bindRecord]
  simp

section

variable (x : State) (l t : Index) (tag mode : Byte) {address mask : Addr} (passes : Half) {cond : Option DataCond}

theorem takeSetbrk_of_refused {st : Status} (hv : x.setbrkVerdict l t mode address mask cond = .inl st) :
    x.takeSetbrk l tag t mode address mask passes cond = x.respondNow l { tag, status := st, kind := 0x20, payload := [] } := by
  unfold takeSetbrk
  rw [hv]
  rfl

/-- The record that an accepted SETBRK creates. -/
def newRecord (l t : Index) (mode : Byte) (mask : Addr) (passes : Half) (m : MatchSpec) (k : BrkKind) (a : Action) (h : Handle) (c : Index) :
    Record :=
  { handle := h, owner := l, target := t, kind := k, address := m.address, mask, cond := m.cond, passes, remaining := passes
    action := a, persistence := modePersistence mode, hits := 0, comparator := c }

theorem takeSetbrk_of_bound {k : BrkKind} {a : Action} {h : Handle} {c : Index} {shared : Bool}
    (hv : x.setbrkVerdict l t mode address mask cond = .inr (k, a, h, c, shared)) :
    let y := x.bindRecord (newRecord l t mode mask passes (setbrkSpec k address mask cond) k a h c)
    x.takeSetbrk l tag t mode address mask passes cond = (if x.demand t then y else y.watchSent t).respondNow l
      { tag, status := .ok, kind := 0x20, payload := [handleByte h, indexByte c, flagByte shared] } := by
  intro y
  have hdemand : y.demand t = true := demand_bindRecord x (newRecord l t mode mask passes (setbrkSpec k address mask cond) k a h c)
  have hwatch : y.watchSince x t = if x.demand t then y else y.watchSent t := by
    unfold watchSince
    rw [hdemand, watchChanged_eq]
    cases x.demand t <;> rfl
  unfold takeSetbrk
  rw [hv, ← hwatch]
  rfl

end

section

variable {s x : State} {l : Index}

/-- A change of the targets and the table is not heard. -/
theorem SameVoice.same {y : State} (h : s.SameVoice x l) (hl : y.links = x.links) (hn : y.notices = x.notices) (hs : y.sessions = x.sessions) :
    s.SameVoice y l where
  respQ := (congrArg (fun us : Quad LinkUnit => (us.get l).respQ) hl).trans h.respQ
  links n hn' := (congrArg (fun us : Quad LinkUnit => us.get n) hl).trans (h.links n hn')
  notices := hn.trans h.notices
  isOpen := (isOpen_congr hs l).trans h.isOpen

theorem SameVoice.watchSent (h : s.SameVoice x l) (t : Index) : s.SameVoice (x.watchSent t) l := by
  unfold State.watchSent
  split
  · exact h
  · exact h.same rfl rfl rfl

end

/-- Settles O16: the verdict of R47's checks, the record bound and the watch of a bank that was empty. -/
theorem setbrkCreatesRecord : Obligations.SetbrkCreatesRecord := by
  unfold Obligations.SetbrkCreatesRecord
  intro s l t tag mode address mask passes k a h c shared cond m hopen hcond hk ha hres hkind hobs hh hb
  have hvoice : s.SameVoice (condUsed l (s.afterDelivery l)) l := (s.afterDelivery_sameVoice l).pending none
  have hv : (condUsed l (s.afterDelivery l)).setbrkVerdict l t mode address mask cond = .inr (k, a, h, c, shared) :=
    setbrkVerdict_of_bound (setbrkFields?_of_defined hk ha hres hkind)
      (fun ho => hobs ((s.isObserver_afterDelivery l l).symm.trans ho)) hh hb
  refine completes_of_respondNow hopen ?_ (congrArg Host.Outcome.next ((setbrk_taken address mask passes hopen hcond).trans
    (takeSetbrk_of_bound _ l t tag mode passes hv)))
  split
  · exact hvoice.same rfl rfl rfl
  · refine SameVoice.watchSent ?_ t
    exact hvoice.same rfl rfl rfl

/-- Settles O17: the match form by the verdict of R47's checks, the data form and the missing condition by the Link Unit. -/
theorem setbrkRefusedOrPending : Obligations.SetbrkRefusedOrPending := by
  unfold Obligations.SetbrkRefusedOrPending
  refine ⟨fun s l t tag mode address mask passes st hopen hcond hrefused => ?_,
    fun s l t tag mode value vmask address mask passes hopen => ⟨?_, fun hflag hnone => ?_⟩⟩
  · have hv : (condUsed l (s.afterDelivery l)).setbrkVerdict l t mode address mask (s.setbrkCond l mode) = .inl st := by
      refine setbrkVerdict_of_refused ?_
      rw [show (condUsed l (s.afterDelivery l)).isObserver l = s.isObserver l from s.isObserver_afterDelivery l l]
      exact hrefused
    exact completes_of_respondNow hopen ((s.afterDelivery_sameVoice l).pending none)
      (congrArg Host.Outcome.next ((setbrk_taken address mask passes hopen hcond).trans (takeSetbrk_of_refused _ l t tag mode passes hv)))
  · exact completes_of_respondNow hopen ((s.afterFrame_sameVoice l).pending (some { value, mask := vmask }))
      (congrArg Host.Outcome.next (s.requestArrives_of_open l tag (.setbrkData value vmask) hopen fun hk =>
        absurd hk (show (0x20 : Byte) ∉ Request.deferredKinds by decide)))
  · have hnone' : ((s.afterFrame l).link l).pendingData = none := (pendingData_afterFrame s l).trans hnone
    have hroute : (s.afterFrame l).route l tag (.setbrk (indexByte t) mode address mask passes) =
        (condUsed l (s.afterFrame l)).respondNow l { tag, status := .badOperand, kind := 0x20, payload := [] } := by
      unfold route
      rw [hnone']
      exact if_pos hflag
    rw [condUsed_fixed hnone'] at hroute
    exact completes_of_respondNow hopen (s.afterFrame_sameVoice l)
      (congrArg Host.Outcome.next ((setbrk_routed s l t tag mode address mask passes hopen).trans hroute))

end State

end Sys2Proof.Machine
end

section
/-! PROOF. CLRBRK: its checks, the deletion with the watch of a bank that empties, and the REVOKED notice to another owner (R63, R64). -/

namespace Sys2Proof.Machine.State

section

variable {s x y : State} {l o t : Index} {tag handle : Byte} {h : Handle}

/-! ### States after a deletion -/

theorem watchSince_eq (s before : State) (t : Index) :
    s.watchSince before t = if before.demand t = s.demand t then s else s.watchSent t := by
  unfold watchSince
  rw [watchChanged_eq]
  exact if_congr eq_comm rfl rfl

theorem Quiet.watchSent (hq : s.Quiet x) (t : Index) : s.Quiet (x.watchSent t) := by
  unfold State.watchSent
  split
  · exact hq
  · exact hq.same rfl rfl rfl

theorem watchSent_bank (s : State) (t u : Index) : (s.watchSent t).bank u = s.bank u := by
  unfold watchSent
  split
  · rfl
  · simp

/-- A quiet state has the voice of `s` where the links are as before. -/
theorem Quiet.sameVoice (hq : s.Quiet x) (hlinks : ∀ n, n ≠ l → x.link n = s.link n) : s.SameVoice x l :=
  ⟨hq.respQ l, hlinks, hq.notices, hq.isOpen l⟩

/-- A notice to another session, and an immediate response to Sl. -/
theorem replies_of_notice (hq : s.Quiet y) (hne : o ≠ l) (ho : s.isOpen l = true) (b : NoticeBody) (r : Response) :
    let s' := (y.queueNotice o b).respondNow l r
    s'.mute = y.mute ∧ s.othersUnanswered s' l ∧ (∀ n, n ≠ l → s.heard s' n (if n = o ∧ s.isOpen n then [b] else [])) ∧
      s.replied s' l r [] := by
  obtain ⟨hmute, hrespQ, hcontents, hothers⟩ := y.queueNotice_spec o b
  obtain ⟨hmute', hsilent⟩ := (y.queueNotice o b).respondNow_spec l r
  have hown : (y.queueNotice o b).notice l = s.notice l := (hothers l (Ne.symm hne)).2.trans (hq.notice l)
  have hsaid : s.Said (y.queueNotice o b) l [] [] :=
    { isOpen := (isOpen_of_mute hmute l).trans ((hq.isOpen l).trans ho)
      respQ := by rw [hrespQ, hq.respQ]; simp
      heard := by rw [State.heard, hown]; rfl
      exact := fun _ => hown }
  refine ⟨hmute'.trans hmute, fun n hn => ?_, fun n hn => ?_, hsaid.respondNow r⟩
  · rw [(hsilent n hn).1, hrespQ, hq.respQ]
  · rw [State.heard, (hsilent n hn).2, hcontents, hq.isOpen, hq.notice, hq.notice]
    by_cases hno : n = o
    · subst hno
      by_cases hon : s.isOpen n = true
      · rw [if_pos ⟨rfl, hon⟩, if_pos ⟨rfl, hon⟩]
        rfl
      · rw [if_neg fun hc => hon hc.2, if_neg fun hc => hon hc.2]
        rfl
    · rw [if_neg fun hc => hno hc.1, if_neg fun hc => hno hc.1]
      rfl

/-! ### The request -/

/-- A CLRBRK that passes the checks of R158 is taken at once by the Breakpoint Table. -/
theorem clrbrk_taken (hopen : s.requestOpen l tag = true) :
    exec (.clrbrk l tag handle) s = .next ((s.afterDelivery l).takeClrbrk l tag handle) :=
  congrArg Host.Outcome.next (s.requestArrives_untargeted l tag (.clrbrk handle) hopen (show (0x21 : Byte) ∉ Request.deferredKinds by decide)
    rfl fun _ => rfl)

theorem clrbrk_refused {st : Status} (hopen : s.requestOpen l tag = true) (htake : (s.afterDelivery l).takeClrbrk l tag handle =
    (s.afterDelivery l).respondNow l { tag, status := st, kind := 0x21, payload := [] }) :
    completes (.clrbrk l tag handle) s fun s' => s'.mute = (s.afterDelivery l).mute ∧ s.othersSilent s' l ∧
      s.replied s' l { tag, status := st, kind := 0x21, payload := [] } [] :=
  completes_of_respondNow hopen (s.afterDelivery_sameVoice l) ((clrbrk_taken hopen).trans (congrArg Host.Outcome.next htake))

/-- The state after the record of `h` on target `t` is deleted. -/
def cleared (h : Handle) (t : Index) (x : State) : State := (x.dropRecord h).watchSince x t

theorem cleared_bank (x : State) (h : Handle) (t u : Index) : (x.cleared h t).bank u = (x.dropRecord h).bank u := by
  unfold cleared
  rw [watchSince_eq]
  split
  · rfl
  · exact watchSent_bank _ t u

theorem Quiet.cleared (hq : s.Quiet x) (h : Handle) (t : Index) : s.Quiet (x.cleared h t) := by
  unfold State.cleared
  rw [watchSince_eq]
  split
  · exact hq.same rfl rfl rfl
  · refine Quiet.watchSent ?_ t
    exact hq.same rfl rfl rfl

theorem cleared_link (x : State) (h : Handle) (t n : Index) : (x.cleared h t).link n = x.link n := by
  unfold cleared
  rw [watchSince_eq]
  split
  · rfl
  · unfold watchSent
    split <;> rfl

/-- Settles O19: the checks of R63 in their order, and a deletion that its owner or a supervisor asks for. -/
theorem clrbrkDeletesRecord : Obligations.ClrbrkDeletesRecord := by
  unfold Obligations.ClrbrkDeletesRecord
  intro s l tag handle h x hopen
  have hrole : (s.afterDelivery l).isSupervisor l = s.isSupervisor l := s.isSupervisor_afterDelivery l l
  refine ⟨fun hh => clrbrk_refused hopen ?_, fun hh hx => clrbrk_refused hopen ?_, fun hh hx => ⟨fun hother hsup => clrbrk_refused hopen ?_,
    fun hmay => ?_⟩⟩
  · unfold takeClrbrk
    rw [hh]
    rfl
  · unfold takeClrbrk
    rw [hh]
    simp only [show (s.afterDelivery l).record? h = none from hx]
    rfl
  · unfold takeClrbrk
    rw [hh]
    simp only [show (s.afterDelivery l).record? h = some x from hx]
    exact if_pos ⟨hother, by simpa [isSupervisor] using hsup⟩
  · have hallowed : ¬ (x.owner ≠ l ∧ (s.afterDelivery l).isSupervisor l = false) := by
      rintro ⟨hother, hsup⟩
      rw [hrole] at hsup
      rcases hmay with hown | hmay
      · exact hother hown
      · simp [isSupervisor, hmay] at hsup
    have htake : (s.afterDelivery l).takeClrbrk l tag handle =
        (if x.owner = l then (s.afterDelivery l).cleared h x.target
          else ((s.afterDelivery l).cleared h x.target).queueNotice x.owner (.revokedBreak h x.target)).respondNow l
            { tag, status := .ok, kind := 0x21
              payload := [indexByte x.target,
                flagByte ((((s.afterDelivery l).dropRecord h).bank x.target).get x.comparator).subs.isEmpty] } := by
      rw [← cleared_bank]
      unfold takeClrbrk
      rw [hh]
      simp only [show (s.afterDelivery l).record? h = some x from hx]
      rw [if_neg hallowed]
      rfl
    have hmute : (s.afterDelivery l).cleared h x.target = if s.demand x.target = ((s.afterDelivery l).dropRecord h).demand x.target then
        (s.afterDelivery l).dropRecord h else ((s.afterDelivery l).dropRecord h).watchSent x.target := watchSince_eq _ _ _
    have hquiet := (s.afterDelivery_quiet l).cleared h x.target
    have ho := isOpen_of_requestOpen s l tag hopen
    refine ⟨_, (clrbrk_taken hopen).trans (congrArg Host.Outcome.next htake), ?_⟩
    by_cases hown : x.owner = l
    · rw [if_pos hown]
      have hvoice : s.SameVoice ((s.afterDelivery l).cleared h x.target) l := hquiet.sameVoice fun n hn => by
        rw [cleared_link]
        exact (s.afterDelivery_sameVoice l).links n hn
      obtain ⟨hm, hsilent, hreplied⟩ := respondNow_of_sameVoice _ hvoice ho
      refine ⟨hm.trans (congrArg mute hmute), fun n hn => by rw [(hsilent n hn).1], fun n hn => ?_, hreplied⟩
      rw [if_neg fun hc => hn (hc.1.trans hown), State.heard, (hsilent n hn).2]
      rfl
    · rw [if_neg hown]
      obtain ⟨hm, hothers, hheard, hreplied⟩ := replies_of_notice hquiet hown ho (.revokedBreak h x.target) _
      exact ⟨hm.trans (congrArg mute hmute), hothers, hheard, hreplied⟩

end

end Sys2Proof.Machine.State
end

section
/-! PROOF. READ and WRITE: the checks of R71 in their order, and the entry that joins the queue (R71, R72). -/

namespace Sys2Proof.Machine

/-! ### The checks of R71 -/

theorem Space.ofByte?_eq_none (b : Byte) : Space.ofByte? b = none ↔ 1 < b.toNat := by
  unfold Space.ofByte?
  split_ifs with h0 h1
  · simp [h0]
  · simp [h1]
  · simp only [true_iff]
    bv_omega

theorem Space.ofByte?_eq_core (b : Byte) : Space.ofByte? b = some .core ↔ b = 0 := by
  unfold Space.ofByte?
  split_ifs with h0 h1
  · simp [h0]
  · simp [h1]
  · simpa using h0

namespace State

section

variable (s : State) (n t : Index) (op : AccOp) (space : Byte) (location : Addr)

/-- The space and the location are checked before the rest. -/
theorem accessRefusal?_of_bad (h : 1 < space.toNat ∨ space = 0 ∧ 127 < location.toNat) :
    s.accessRefusal? n t op space location = some .badOperand := by
  unfold accessRefusal?
  cases hs : Space.ofByte? space with
  | none => rfl
  | some sp =>
    have hknown : ¬ 1 < space.toNat := by rw [← Space.ofByte?_eq_none, hs]; simp
    obtain ⟨hzero, hloc⟩ := h.resolve_left hknown
    have hcore : sp = .core := Option.some.inj (hs.symm.trans ((Space.ofByte?_eq_core space).2 hzero))
    exact if_pos ⟨hcore, hloc⟩

/-- The checks after the space and the location. -/
theorem accessRefusal?_of_good (h : ¬ (1 < space.toNat ∨ space = 0 ∧ 127 < location.toNat)) :
    s.accessRefusal? n t op space location =
      let write := match op with | .write _ => true | .read => false
      if write && s.isObserver n then some .role
      else if write && (s.rc t).lockedAgainst n then some .locked
      else if 8 ≤ (s.acc t).queue.length then some .queueFull
      else none := by
  obtain ⟨hknown, hloc⟩ := not_or.1 h
  unfold accessRefusal?
  cases hs : Space.ofByte? space with
  | none => exact absurd ((Space.ofByte?_eq_none space).1 hs) hknown
  | some sp =>
    have hplace : ¬ (sp = .core ∧ Config.maxCoreIndex < location.toNat) := by
      rintro ⟨rfl, hlarge⟩
      exact hloc ⟨(Space.ofByte?_eq_core space).1 hs, hlarge⟩
    exact if_neg hplace

theorem accessRefusal?_read : s.accessRefusal? n t .read space location =
    if 1 < space.toNat ∨ space = 0 ∧ 127 < location.toNat then some .badOperand
    else if 8 ≤ (s.acc t).queue.length then some .queueFull
    else none := by
  by_cases hbad : 1 < space.toNat ∨ space = 0 ∧ 127 < location.toNat
  · rw [if_pos hbad, accessRefusal?_of_bad s n t .read space location hbad]
  · rw [if_neg hbad, accessRefusal?_of_good s n t .read space location hbad]
    simp

theorem accessRefusal?_write (data : Word) : s.accessRefusal? n t (.write data) space location =
    if 1 < space.toNat ∨ space = 0 ∧ 127 < location.toNat then some .badOperand
    else if s.isObserver n then some .role
    else if (s.rc t).lockedAgainst n then some .locked
    else if 8 ≤ (s.acc t).queue.length then some .queueFull
    else none := by
  by_cases hbad : 1 < space.toNat ∨ space = 0 ∧ 127 < location.toNat
  · rw [if_pos hbad, accessRefusal?_of_bad s n t (.write data) space location hbad]
  · rw [if_neg hbad, accessRefusal?_of_good s n t (.write data) space location hbad]
    simp

end

/-- An access joins the queue: the new entry at its tail, examined at once where the queue was empty. -/
theorem addAccess_eq (x : State) (l : Index) (tag : Byte) (t : Index) (op : AccOp) (sp : Space) (location : Addr) :
    let joined : State := (x.joinWindow l tag).modAcc t fun a =>
      { a with queue := a.queue ++ [{ session := l, tag, op, space := sp, location, inFlight := false, written := false, discard := false }] }
    x.addAccess l tag t op sp location = if (x.acc t).queue = [] then joined.examine t else joined := by
  unfold addAccess
  exact if_congr List.isEmpty_iff rfl rfl

section

variable {s : State} {l t : Index} {tag space : Byte} {location : Addr} {data : Word}

/-- A READ that the window admits is taken at once. -/
theorem read_taken (h : s.requestOpen l tag = true) (hw : s.windowOpen l = true) :
    exec (.read l tag (indexByte t) space location) s = .next ((s.afterDelivery l).takeRead l tag t space location) :=
  congrArg Host.Outcome.next ((s.requestArrives_targeted l t tag (q := .read (indexByte t) space location) h (fun _ => hw) rfl
    fun _ => rfl).trans (atTarget_indexByte _ t fun i => takeRead l tag i space location))

theorem write_taken (h : s.requestOpen l tag = true) (hw : s.windowOpen l = true) :
    exec (.write l tag (indexByte t) space location data) s =
      .next ((s.afterDelivery l).takeWrite l tag t space location data) :=
  congrArg Host.Outcome.next ((s.requestArrives_targeted l t tag (q := .write (indexByte t) space location data) h (fun _ => hw) rfl
    fun _ => rfl).trans (atTarget_indexByte _ t fun i => takeWrite l tag i space location data))

end

/-- Settles O24: the checks of R71 by the operation, and the new entry. -/
theorem accessJoinsQueueOrIsRefused : Obligations.AccessJoinsQueueOrIsRefused := by
  unfold Obligations.AccessJoinsQueueOrIsRefused
  refine ⟨fun s l t tag space location data sp h hw hsp hloc hroom => ?_,
    fun s l t tag space location data st h hw => ⟨fun hst => ?_, fun hst => ?_⟩⟩
  · have hgood : ¬ (1 < space.toNat ∨ space = 0 ∧ 127 < location.toNat) := by
      rintro (hlarge | ⟨hzero, hlarge⟩)
      · rw [(Space.ofByte?_eq_none space).2 hlarge] at hsp
        cases hsp
      · have hcore : sp = .core := Option.some.inj (hsp.symm.trans ((Space.ofByte?_eq_core space).2 hzero))
        exact absurd hlarge (Nat.not_lt.2 (hloc hcore))
    have hfull : ¬ 8 ≤ ((s.afterDelivery l).acc t).queue.length := Nat.not_le.2 hroom
    refine ⟨(read_taken h hw).trans (congrArg Host.Outcome.next ?_), fun hobs hlock => (write_taken h hw).trans (congrArg Host.Outcome.next ?_)⟩
    · unfold takeRead
      rw [accessRefusal?_read, if_neg hgood, if_neg hfull, hsp]
      exact addAccess_eq _ l tag t .read sp location
    · unfold takeWrite
      rw [accessRefusal?_write, if_neg hgood, isObserver_afterDelivery, if_neg hobs,
        if_neg (show ¬ ((s.afterDelivery l).rc t).lockedAgainst l = true from hlock), if_neg hfull, hsp]
      exact addAccess_eq _ l tag t (.write data) sp location
  · refine completes_of_respondNow h (s.afterDelivery_sameVoice l) ((read_taken h hw).trans (congrArg Host.Outcome.next ?_))
    have hrefusal : (s.afterDelivery l).accessRefusal? l t .read space location = some st := (accessRefusal?_read _ l t space location).trans hst
    unfold takeRead
    rw [hrefusal]
    rfl
  · refine completes_of_respondNow h (s.afterDelivery_sameVoice l) ((write_taken h hw).trans (congrArg Host.Outcome.next ?_))
    have hrefusal : (s.afterDelivery l).accessRefusal? l t (.write data) space location = some st := by
      rw [accessRefusal?_write, isObserver_afterDelivery]
      exact hst
    unfold takeWrite
    rw [hrefusal]
    rfl

end State

end Sys2Proof.Machine
end

section
/-! PROOF. Refusals by target number, by the window, and by operands that a HALT or RESUME does not have (R158 to R160). -/

namespace Sys2Proof.Machine.State

/-! ### Target numbers above 3 -/

section

variable {s x : State} {l : Index} {tag target kind : Byte} {c : Instr} {q : Request}

/-- A request of a deferred kind that finds the window closed is refused BUSY by the Link Unit. -/
theorem requestArrives_of_closedWindow (h : s.requestOpen l tag = true) (hk : q.kind ∈ Request.deferredKinds)
    (hw : ¬ s.windowOpen l = true) : s.requestArrives l tag q = (s.afterFrame l).respondPlain l tag q.kind .busy := by
  obtain ⟨hready, ho, htag⟩ := (s.requestOpen_iff l tag).1 h
  obtain ⟨hrx, hrouted, -⟩ := (s.requestReady_iff l).1 hready
  rw [requestArrives_of_idle s l tag q hrx hrouted]
  refine checkRequest_of_busy _ l q.kind_mem (.inl ((s.afterFrame_sameVoice l).isOpen.trans ho)) (by simpa using htag) fun hpass => hw ?_
  rw [← windowOpen_afterFrame]
  exact hpass hk

/-- The Link Unit refuses a request for no target: BUSY where the window is closed for its kind, BAD_OPERAND otherwise. -/
theorem completes_of_badTarget (h : s.requestOpen l tag = true) (hexec : exec c s = .next (s.requestArrives l tag q))
    (hkey : q.kind = kind) (hq : q.target? = some target) (hb : 3 < target.toNat) (hkind : kind ≠ 0x20)
    (hroute : ∀ x : State, x.route l tag q = x.handOver l tag q none) :
    completes c s fun s' =>
      s'.mute = (if kind = 0x20 then (s.afterFrame l).modLink l fun u => { u with pendingData := none } else s.afterFrame l).mute ∧
        s.othersSilent s' l ∧
        let st : Status := if kind ∈ ([0x12, 0x30, 0x31, 0x51] : List Byte) ∧ ¬ s.windowOpen l then .busy else .badOperand
        s.replied s' l { tag, status := st, kind, payload := [] } [] := by
  subst hkey
  rw [if_neg hkind]
  refine completes_of_respondNow h (s.afterFrame_sameVoice l) (hexec.trans (congrArg Host.Outcome.next ?_))
  by_cases hbusy : q.kind ∈ Request.deferredKinds ∧ ¬ s.windowOpen l = true
  · rw [requestArrives_of_closedWindow h hbusy.1 hbusy.2, if_pos (by exact hbusy)]
    rfl
  · rw [s.requestArrives_of_open l tag q h fun hk => by
        rw [windowOpen_afterFrame]
        exact not_not.1 fun hw => hbusy ⟨hk, hw⟩,
      hroute, handOver_of_noTarget (s.afterFrame l) l tag q none hq hb, if_neg (by exact hbusy)]
    rfl

/-- A SETBRK for no target is refused, its data condition consumed. -/
theorem setbrk_badTarget {mode : Byte} {address mask : Addr} {passes : Half} (h : s.requestOpen l tag = true) (hb : 3 < target.toNat) :
    s.requestArrives l tag (.setbrk target mode address mask passes) =
      (condUsed l (s.afterFrame l)).respondNow l { tag, status := .badOperand, kind := 0x20, payload := [] } := by
  rw [s.requestArrives_of_open l tag (.setbrk target mode address mask passes) h fun hk =>
    absurd hk (show (0x20 : Byte) ∉ Request.deferredKinds by decide)]
  have hhand (d : Option DataCond) : (condUsed l (s.afterFrame l)).handOver l tag (.setbrk target mode address mask passes) d =
      (condUsed l (s.afterFrame l)).respondNow l { tag, status := .badOperand, kind := 0x20, payload := [] } :=
    handOver_of_noTarget _ l tag _ d rfl hb
  unfold route
  simp only
  split
  · split
    · exact hhand _
    · rfl
  · exact hhand none

end

/-! ### HALT and RESUME that would be deferred -/

section

variable (x : State) (l t : Index) (tag : Byte)

/-- A HALT is accepted and answered later. -/
def haltLater (x : State) (l t : Index) : Prop :=
  ¬ x.isObserver l = true ∧ ¬ (x.rc t).lockedAgainst l = true ∧ haltAtOnce (x.rc t).run = false

/-- A RESUME is accepted and answered later. -/
def resumesLater (x : State) (l t : Index) : Prop :=
  ¬ x.isObserver l = true ∧ ((x.rc t).hold.has l = true ∨ (x.rc t).hold.self = true) ∧ resumeLater l (x.rc t) = true

theorem haltWindow_iff : (!x.isObserver l && !(x.rc t).lockedAgainst l && (haltAnswer (x.rc t).run).isNone && !x.windowOpen l) = true ↔
    x.haltLater l t ∧ ¬ x.windowOpen l = true := by
  have honce : (haltAnswer (x.rc t).run).isNone = !haltAtOnce (x.rc t).run := by
    rw [haltAnswer_eq]
    cases haltAtOnce (x.rc t).run <;> rfl
  simp [haltLater, honce, and_assoc]

theorem takeHalt_of_busy (e : Bool) (h : x.haltLater l t ∧ ¬ x.windowOpen l = true) :
    x.takeHalt l tag t e = x.respondPlain l tag 0x10 .busy := by
  unfold takeHalt
  exact if_pos ((haltWindow_iff x l t).2 h)

theorem takeHalt_of_operands (h : ¬ (x.haltLater l t ∧ ¬ x.windowOpen l = true)) :
    x.takeHalt l tag t false = x.respondPlain l tag 0x10 .badOperand := by
  unfold takeHalt
  exact if_neg (mt (haltWindow_iff x l t).1 h)

theorem resumeWindow_iff : (!x.isObserver l && (((x.rc t).hold.has l || (x.rc t).hold.self) && (x.holdAfterResume l t).isEmpty &&
    resumeDefers (x.rc t).run) && !x.windowOpen l) = true ↔ x.resumesLater l t ∧ ¬ x.windowOpen l = true := by
  have hlater : ((x.holdAfterResume l t).isEmpty && resumeDefers (x.rc t).run) = resumeLater l (x.rc t) := (resumeLater_eq l (x.rc t)).symm
  rw [Bool.and_assoc ((x.rc t).hold.has l || (x.rc t).hold.self), hlater]
  simp [resumesLater, and_assoc]

theorem takeResume_of_busy (e : Bool) (h : x.resumesLater l t ∧ ¬ x.windowOpen l = true) :
    x.takeResume l tag t e = x.respondPlain l tag 0x11 .busy := by
  unfold takeResume
  exact if_pos ((resumeWindow_iff x l t).2 h)

theorem takeResume_of_operands (h : ¬ (x.resumesLater l t ∧ ¬ x.windowOpen l = true)) :
    x.takeResume l tag t false = x.respondPlain l tag 0x11 .badOperand := by
  unfold takeResume
  exact if_neg (mt (resumeWindow_iff x l t).1 h)

end

/-! ### Frames with operands -/

/-- The state in which the owner takes the request of a good frame. -/
def afterGoodDelivery (l : Index) (s : State) : State :=
  { s.afterGoodFrame l with sched := { s.sched with delays := s.sched.delays.tail } }

theorem afterGoodDelivery_sameVoice (s : State) (l : Index) : s.SameVoice (s.afterGoodDelivery l) l :=
  (s.afterGoodFrame_sameVoice l).same rfl rfl rfl

theorem isObserver_afterGoodDelivery (s : State) (l : Index) : (s.afterGoodDelivery l).isObserver l = s.isObserver l := by
  have hrole : (s.afterGoodDelivery l).role? l = s.role? l := role?_modOpen (s.modLink l _) l l fun _ => rfl
  unfold isObserver
  rw [hrole]

section

variable {s : State} {l t : Index} {tag kind toh n : Byte} {ops : List Byte} (hrx : (s.link l).rx = .receiving (n :: tag :: kind :: toh :: ops))
  (hlen : n.toNat = ops.length + 3) (hrouted : (s.link l).routed = none) (ho : s.isOpen l = true) (htag : tag ∉ s.tags l)

include hrx hlen hrouted ho htag

/-- The frame of a request that the window does not concern goes to its owner. -/
theorem exec_checkByte_handOver {q : Request} (hkind : kind ∈ Request.kinds) (hnow : kind ∉ Request.deferredKinds)
    (hq : Request.parse kind toh ops = some q) (hroute : ∀ x : State, x.route l tag q = x.handOver l tag q none) :
    exec (.receivedByte l (crc8 (n :: tag :: kind :: toh :: ops))) s = .next ((s.afterGoodFrame l).handOver l tag q none) := by
  rw [s.exec_checkByte_good l tag kind toh ops hrx hlen hrouted, checkRequest_of_passed _ l hkind
    (.inl ((s.afterGoodFrame_sameVoice l).isOpen.trans ho)) (by rwa [tags_afterGoodFrame]) (fun hk => absurd hk hnow) hq, hroute]

/-- A HALT or RESUME for target `t` reaches its Run Control Unit, which answers it at once. -/
theorem completes_of_frameFor {q : Request} {st : Status} (hkind : kind ∈ Request.kinds) (hnow : kind ∉ Request.deferredKinds)
    (hq : Request.parse kind toh ops = some q) (hroute : ∀ x : State, x.route l tag q = x.handOver l tag q none)
    (htarget : q.target? = some (indexByte t)) (hdelay : s.sched.delays.head? ≠ some true)
    (htake : (s.afterGoodDelivery l).ownerTake l tag q none = (s.afterGoodDelivery l).respondPlain l tag kind st) :
    completes (.receivedByte l (crc8 (n :: tag :: kind :: toh :: ops))) s fun s' => s'.mute = (s.afterGoodDelivery l).mute ∧
      s.othersSilent s' l ∧ s.replied s' l { tag, status := st, kind, payload := [] } [] := by
  refine ⟨_, exec_checkByte_handOver hrx hlen hrouted ho htag hkind hnow hq hroute, ?_⟩
  have hidle : ((s.afterGoodFrame l).link l).routed = none := by simpa [afterGoodFrame, restartLease] using hrouted
  rw [handOver_of_target _ l t tag q none htarget, deliver_of_ready (s.afterGoodFrame l) l tag q none hidle hdelay]
  rw [show ({ s.afterGoodFrame l with
    sched := { (s.afterGoodFrame l).sched with delays := (s.afterGoodFrame l).sched.delays.tail } } : State) =
      s.afterGoodDelivery l from rfl, htake]
  exact respondNow_of_sameVoice _ (s.afterGoodDelivery_sameVoice l) ho

/-- A HALT or RESUME for no target is refused by the Link Unit. -/
theorem completes_of_frameForNone {q : Request} (hkind : kind ∈ Request.kinds) (hnow : kind ∉ Request.deferredKinds)
    (hq : Request.parse kind toh ops = some q) (hroute : ∀ x : State, x.route l tag q = x.handOver l tag q none)
    (hkey : q.kind = kind) (htarget : q.target? = some toh) (hb : 3 < toh.toNat) :
    completes (.receivedByte l (crc8 (n :: tag :: kind :: toh :: ops))) s fun s' => s'.mute = (s.afterGoodFrame l).mute ∧
      s.othersSilent s' l ∧ s.replied s' l { tag, status := .badOperand, kind, payload := [] } [] := by
  refine ⟨_, exec_checkByte_handOver hrx hlen hrouted ho htag hkind hnow hq hroute, ?_⟩
  rw [handOver_of_noTarget _ l tag q none htarget hb, hkey]
  exact respondNow_of_sameVoice _ (s.afterGoodFrame_sameVoice l) ho

end

/-- Settles O46: the Link Unit's refusals by the target, and the Run Control Unit's by the window and the operands. -/
theorem linkAndWindowRefusals : Obligations.LinkAndWindowRefusals := by
  unfold Obligations.LinkAndWindowRefusals
  have hk10 : (0x10 : Byte) ∉ Request.deferredKinds := by decide
  have hk11 : (0x11 : Byte) ∉ Request.deferredKinds := by decide
  refine ⟨fun s l tag target a b x y p w h hb => ?_, fun s l t tag h hw hobs => ⟨fun hlock honce => ?_, fun hremoves hlater => ?_⟩,
    fun s l t tag kind toh n ops hrx hlen hrouted hdelay ho htag hops hkind => ?_⟩
  · simp only [List.forall_mem_cons, List.not_mem_nil, false_imp_iff, implies_true, and_true]
    refine ⟨?_, ?_, ?_, ?_, ?_, ?_, ?_, ?_, ?_, ?_, ?_, ?_, ?_⟩
    · exact completes_of_badTarget (q := .halt target true) h rfl rfl rfl hb (by decide) fun _ => rfl
    · exact completes_of_badTarget (q := .resume target true) h rfl rfl rfl hb (by decide) fun _ => rfl
    · exact completes_of_badTarget (q := .step target a) h rfl rfl rfl hb (by decide) fun _ => rfl
    · exact completes_of_badTarget (q := .status target) h rfl rfl rfl hb (by decide) fun _ => rfl
    · exact completes_of_badTarget (q := .lock target) h rfl rfl rfl hb (by decide) fun _ => rfl
    · exact completes_of_badTarget (q := .unlock target) h rfl rfl rfl hb (by decide) fun _ => rfl
    · exact completes_of_badTarget (q := .frel target) h rfl rfl rfl hb (by decide) fun _ => rfl
    · exact completes_of_respondNow h ((s.afterFrame_sameVoice l).pending none) (congrArg Host.Outcome.next (setbrk_badTarget h hb))
    · exact completes_of_badTarget (q := .read target a x) h rfl rfl rfl hb (by decide) fun _ => rfl
    · exact completes_of_badTarget (q := .write target a x w) h rfl rfl rfl hb (by decide) fun _ => rfl
    · exact completes_of_badTarget (q := .configRead target a) h rfl rfl rfl hb (by decide) fun _ => rfl
    · exact completes_of_badTarget (q := .configSet target a b) h rfl rfl rfl hb (by decide) fun _ => rfl
    · exact completes_of_badTarget (q := .treset target) h rfl rfl rfl hb (by decide) fun _ => rfl
  · refine completes_of_taken (q := .halt (indexByte t) true) h rfl (fun hk => absurd hk hk10) rfl (fun _ => rfl)
      ((atTarget_indexByte _ t fun i => takeHalt l tag i true).trans (takeHalt_of_busy _ l t tag true ⟨⟨?_, hlock, honce⟩, ?_⟩))
    · rwa [isObserver_afterDelivery]
    · rwa [windowOpen_afterDelivery]
  · refine completes_of_taken (q := .resume (indexByte t) true) h rfl (fun hk => absurd hk hk11) rfl (fun _ => rfl)
      ((atTarget_indexByte _ t fun i => takeResume l tag i true).trans (takeResume_of_busy _ l t tag true ⟨⟨?_, hremoves, hlater⟩, ?_⟩))
    · rwa [isObserver_afterDelivery]
    · rwa [windowOpen_afterDelivery]
  · have hparse (e : Bool) (he : ops.isEmpty = e) : Request.parse 0x10 toh ops = some (.halt toh e) ∧
        Request.parse 0x11 toh ops = some (.resume toh e) := by
      subst he
      exact ⟨rfl, rfl⟩
    obtain ⟨hhalt, hresume⟩ := hparse false (List.isEmpty_eq_false_iff.2 hops)
    have hlater (p : Prop) : ¬ (s.afterGoodDelivery l).isObserver l = true ∧ p ↔ ¬ s.isObserver l = true ∧ p := by
      rw [isObserver_afterGoodDelivery]
    have hw : (s.afterGoodDelivery l).windowOpen l = s.windowOpen l := s.windowOpen_afterGoodFrame l
    refine ⟨fun hb => ?_, ?_⟩
    · rcases hkind with rfl | rfl
      · exact completes_of_frameForNone hrx hlen hrouted ho htag (by decide) hk10 hhalt (fun _ => rfl) rfl rfl hb
      · exact completes_of_frameForNone hrx hlen hrouted ho htag (by decide) hk11 hresume (fun _ => rfl) rfl rfl hb
    · rintro rfl
      rcases hkind with rfl | rfl
      · refine completes_of_frameFor hrx hlen hrouted ho htag (by decide) hk10 hhalt (fun _ => rfl) rfl hdelay
          ((atTarget_indexByte _ t fun i => takeHalt l tag i false).trans ?_)
        by_cases hbusy : (s.afterGoodDelivery l).haltLater l t ∧ ¬ (s.afterGoodDelivery l).windowOpen l = true
        · rw [takeHalt_of_busy _ l t tag false hbusy, if_pos]
          exact ⟨(hlater _).1 hbusy.1, by rw [← hw]; exact hbusy.2⟩
        · rw [takeHalt_of_operands _ l t tag hbusy, if_neg]
          exact fun h => hbusy ⟨(hlater _).2 h.1, by rw [hw]; exact h.2⟩
      · refine completes_of_frameFor hrx hlen hrouted ho htag (by decide) hk11 hresume (fun _ => rfl) rfl hdelay
          ((atTarget_indexByte _ t fun i => takeResume l tag i false).trans ?_)
        by_cases hbusy : (s.afterGoodDelivery l).resumesLater l t ∧ ¬ (s.afterGoodDelivery l).windowOpen l = true
        · rw [takeResume_of_busy _ l t tag false hbusy, if_pos]
          exact ⟨(hlater _).1 hbusy.1, by rw [← hw]; exact hbusy.2⟩
        · rw [takeResume_of_operands _ l t tag hbusy, if_neg]
          exact fun h => hbusy ⟨(hlater _).2 h.1, by rw [hw]; exact h.2⟩

end Sys2Proof.Machine.State
end

section
/-! PROOF. FREL: the holds and the lock of the other sessions, with the REVOKED notices before the STATE notices (R104 to R108). -/

namespace Sys2Proof.Machine.State

/-! ### The REVOKED notices -/

/-- The REVOKED notice of a forced release to Sn. -/
def revokedNotice (s : State) (t : Index) (held locked : Index → Bool) (n : Index) : List NoticeBody :=
  if (held n || locked n) = true ∧ s.isOpen n then [.revokedClaims t (held n) (locked n)] else []

/-- One session hears that its claims are revoked. -/
def revokeStep (t : Index) (held locked : Index → Bool) (s : State) (n : Index) : State :=
  if held n || locked n then s.queueNotice n (.revokedClaims t (held n) (locked n)) else s

section

variable (s : State) (t : Index) (held locked : Index → Bool)

theorem revokeStep_does (n : Index) : s.Does (revokeStep t held locked s n) s [] fun m =>
    if m = n then s.revokedNotice t held locked m else [] := by
  unfold revokeStep
  by_cases hr : (held n || locked n) = true
  · rw [if_pos hr]
    refine ⟨(s.queueNotice_spec n _).1, (s.queueNotice_sends n rfl).congr rfl fun m => ?_⟩
    by_cases hm : m = n
    · subst hm
      simp [revokedNotice, hr]
    · simp [hm]
  · rw [if_neg hr]
    refine (Does.silent rfl rfl).congr rfl rfl fun m => ?_
    by_cases hm : m = n
    · subst hm
      simp [revokedNotice, hr]
    · simp [hm]

theorem revokeStep_other {n m : Index} (hm : (held m || locked m) = false) : (revokeStep t held locked s n).notice m = s.notice m := by
  unfold revokeStep
  by_cases hr : (held n || locked n) = true
  · rw [if_pos hr]
    refine ((s.queueNotice_spec n _).2.2.2 m ?_).2
    rintro rfl
    rw [hm] at hr
    cases hr
  · rw [if_neg hr]

theorem revokeAll_does (ns : List Index) (hnodup : ns.Nodup) : ∀ x : State, (∀ n, x.isOpen n = s.isOpen n) →
    x.Does (ns.foldl (revokeStep t held locked) x) x [] fun m => if m ∈ ns then s.revokedNotice t held locked m else [] := by
  induction ns with
  | nil => exact fun x _ => Does.silent rfl rfl
  | cons n ns ih =>
    intro x hx
    obtain ⟨hn, hns⟩ := List.nodup_cons.1 hnodup
    have h1 := x.revokeStep_does t held locked n
    have ho (m : Index) : (revokeStep t held locked x n).isOpen m = x.isOpen m := isOpen_of_mute h1.mute m
    have h2 := ih hns (revokeStep t held locked x n) fun m => (ho m).trans (hx m)
    refine (h1.trans ho h2).congr h1.mute rfl fun m => ?_
    by_cases hm : m = n
    · subst hm
      simp [hn, revokedNotice, hx]
    · simp [hm]

theorem revokeAll_other {m : Index} (hm : (held m || locked m) = false) (ns : List Index) :
    ∀ x : State, (ns.foldl (revokeStep t held locked) x).notice m = x.notice m := by
  induction ns with
  | nil => exact fun x => rfl
  | cons n ns ih => exact fun x => (ih _).trans (revokeStep_other x t held locked hm)

end

/-! ### A change of the hold set in HALTED -/

/-- What a change of the hold set in HALTED does before its STATE notice. -/
def holdMoved (t : Index) (s : State) : State :=
  if (s.rc t).hold.isEmpty then
    if (s.acc t).inFlight then s.modRc t fun r => { r with relDefer := true }
    else (s.handRc t .run).modRc t fun r => { r with run := .releasing, relDefer := false }
  else s

theorem afterHoldChange_eq (s : State) (t : Index) : s.afterHoldChange t = (s.holdMoved t).notifyState t := by
  unfold afterHoldChange holdMoved
  split
  · split
    · rename_i hfly
      rw [release_deferred _ _ hfly]
    · rename_i hidle
      simp [release, hidle, setRun]
  · rfl

/-- The Run Control Unit after a change of the hold set in HALTED. -/
def holdMovedRc (a : AccessEngine) (r : RunControl) : RunControl :=
  { r with
    run := if r.hold.isEmpty && !a.inFlight then .releasing else r.run
    relDefer := if r.hold.isEmpty then a.inFlight else r.relDefer }

theorem holdMovedRc_held {r : RunControl} (h : r.hold.isEmpty = false) (a : AccessEngine) : holdMovedRc a r = r := by
  simp [holdMovedRc, h]

section

variable {s z y y' : State} {t l : Index} {rs : List Answer} {r r' : RunControl} {bs : List NoticeBody}

theorem Ran.holdMoved (h : s.Ran z y t rs r bs) :
    s.Ran (if r.hold.isEmpty && !(z.acc t).inFlight then z.handRc t .run else z) (y.holdMoved t) t rs (holdMovedRc (z.acc t) r) bs := by
  unfold State.holdMoved
  rw [h.rc, h.acc]
  cases hfree : r.hold.isEmpty with
  | false =>
    rw [holdMovedRc_held hfree]
    exact h
  | true =>
    cases hfly : (z.acc t).inFlight with
    | true => exact (h.modRc fun r => { r with relDefer := true }).congr rfl (by simp [holdMovedRc, hfree, hfly]) rfl
    | false =>
      exact ((h.handRc .run).modRc fun r => { r with run := .releasing, relDefer := false }).congr rfl
        (by simp [holdMovedRc, hfree, hfly]) rfl

theorem holdMoved_silent (y : State) (t : Index) : (y.holdMoved t).links = y.links ∧ (y.holdMoved t).notices = y.notices := by
  unfold holdMoved
  split
  · split
    · exact ⟨rfl, rfl⟩
    · exact ⟨by simp, by simp⟩
  · exact ⟨rfl, rfl⟩

/-- A silent change of the Run Control Unit and its STATE notice, as the watchers and the requester's queue have it. -/
theorem Ran.notified (he : s.Exact y l (s.toWatchers t bs l)) {z' : State} {rs' : List Answer}
    (h' : s.Ran z' y' t rs' r' bs) (hl : y'.links = y.links) (hn : y'.notices = y.notices) :
    s.Ran z' (y'.notifyState t) t rs' r' (bs ++ [stateOf t r']) ∧
      s.Exact (y'.notifyState t) l (s.toWatchers t (bs ++ [stateOf t r']) l) := by
  have he' := (he.silent hl hn).notifyState t
  rw [stateBody_of_ran h'.mute] at he'
  have happend : s.toWatchers t (bs ++ [stateOf t r']) l = s.toWatchers t bs l ++ y'.toWatchers t [stateOf t r'] l := by
    unfold toWatchers
    rw [h'.watches]
    split <;> rfl
  rw [happend]
  exact ⟨h'.notifyState, he'⟩

end

end Sys2Proof.Machine.State
end

section
/-! PROOF. FREL as a whole (R104 to R108): the Run Control Unit it leaves, and what each session hears. -/

namespace Sys2Proof.Machine.State

/-! ### What a forced release does to the Run Control Unit -/

/-- Sn is revoked for hold. -/
def frelHeld (l : Index) (r : RunControl) (n : Index) : Bool := n != l && r.hold.has n

/-- Sn is revoked for lock. -/
def frelLocked (l : Index) (r : RunControl) (n : Index) : Bool := n != l && decide (r.lock = some n)

/-- The hold set that the supervisor alone may stay in. -/
def frelHold (l : Index) (r : RunControl) : HoldSet := { members := (Quad.all false).set l (r.hold.has l), self := false }

/-- The HALT waiters of the sessions revoked for hold. -/
def frelAborts (l : Index) (r : RunControl) : List Answer :=
  (r.waiters.filter fun w => w.kind == .halt && frelHeld l r w.session).map (waiterAnswer .aborted (frelHold l r))

/-- The Run Control Unit once the hold set is cut down and the HALT waiters of the revoked are answered. -/
def frelCut (l : Index) (r : RunControl) : RunControl :=
  { r with
    hold := frelHold l r
    waiters := r.waiters.filter fun w => !(w.kind == .halt && frelHeld l r w.session)
    stepSeq := r.stepSeq.map fun q => { q with aborted := q.aborted || frelHeld l r q.session } }

/-- The same after the action of Table 5-3. -/
def frelActed (l : Index) (a : AccessEngine) (r : RunControl) : RunControl :=
  if r.run = .halted ∧ r.hold ≠ frelHold l r then holdMovedRc a (frelCut l r) else frelCut l r

/-- The same once the lock of another session is cleared. -/
def frelRc (l : Index) (a : AccessEngine) (r : RunControl) : RunControl :=
  { frelActed l a r with lock := if r.lockedAgainst l then none else r.lock }

/-- A forced release releases the target. -/
def frelReleases (l : Index) (a : AccessEngine) (r : RunControl) : Bool :=
  r.run == .halted && r.hold != frelHold l r && (frelHold l r).isEmpty && !a.inFlight

/-- The STATE notices of a forced release. -/
def frelStates (l t : Index) (a : AccessEngine) (r : RunControl) : List NoticeBody :=
  (if r.run = .halted ∧ r.hold ≠ frelHold l r then [stateOf t (frelActed l a r)] else []) ++
    if r.lockedAgainst l then [stateOf t (frelRc l a r)] else []

section

variable (l t : Index) (a : AccessEngine) (r : RunControl)

theorem frelAborts_others : ∀ x ∈ frelAborts l r, x.1 ≠ l := by
  intro x hx
  obtain ⟨w, hw, rfl⟩ := List.mem_map.1 hx
  have hkeep := (List.mem_filter.1 hw).2
  simp only [frelHeld, Bool.and_eq_true, bne_iff_ne] at hkeep
  exact hkeep.2.1

theorem frelActed_eq : frelActed l a r =
    { frelCut l r with
      run := if frelReleases l a r then .releasing else r.run
      relDefer := if r.run = .halted ∧ r.hold ≠ frelHold l r ∧ (frelHold l r).isEmpty then a.inFlight else r.relDefer } := by
  unfold frelActed holdMovedRc frelReleases
  by_cases hrun : r.run = .halted
  · by_cases hhold : r.hold = frelHold l r
    · rw [if_neg fun h => h.2 hhold]
      simp [frelCut, ← hhold]
    · rw [if_pos ⟨hrun, hhold⟩]
      simp [frelCut, hrun, hhold]
  · rw [if_neg fun h => hrun h.1]
    simp [frelCut, hrun]

/-- Without another session's lock nothing is cleared. -/
theorem frelRc_of_free (h : r.lockedAgainst l = false) : frelRc l a r = frelActed l a r := by
  have hlock : (frelActed l a r).lock = r.lock := by rw [frelActed_eq]; rfl
  unfold frelRc
  rw [h, if_neg Bool.false_ne_true, ← hlock]

end

/-! ### The stages of FREL -/

section

variable (x : State) (l t : Index)

theorem revokedHold_get (n : Index) : (x.revokedHold l t).get n = frelHeld l (x.rc t) n := by
  unfold revokedHold frelHeld
  show ((x.rc t).hold.members.set l false).get n = _
  rw [Quad.get_set]
  by_cases hn : n = l
  · simp [hn]
  · simp [hn, HoldSet.has]

theorem revokedLock_get (n : Index) : (x.revokedLock l t).get n = frelLocked l (x.rc t) n := by
  unfold revokedLock frelLocked
  cases hlock : (x.rc t).lock with
  | none => simp
  | some o =>
    by_cases ho : o = l
    · by_cases hn : n = l <;> simp_all [eq_comm]
    · simp only [if_neg ho, Quad.get_set, Quad.get_all]
      by_cases hn : n = o
      · simp [hn, ho]
      · simp [hn, Ne.symm hn]

theorem revokedLock_eq_none : x.revokedLock l t = .all false ↔ (x.rc t).lockedAgainst l = false := by
  rw [← Bool.not_eq_true, lockedAgainst_iff]
  unfold revokedLock
  cases hlock : (x.rc t).lock with
  | none => simp
  | some o =>
    by_cases ho : o = l
    · simp [ho]
    · simp only [Option.some.injEq, exists_eq_left', ho, ne_eq, not_false_eq_true, not_true_eq_false, iff_false]
      intro hall
      have hget := congrArg (fun q : Quad Bool => q.get o) hall
      simp at hget

/-- The holds of the others end and their HALT waiters are answered. -/
def frelStart (l t : Index) (x : State) : State :=
  (x.modRc t fun r =>
    { r with
      hold := { members := (Quad.all false).set l (r.hold.has l), self := false }
      stepSeq := r.stepSeq.map fun q => if (x.revokedHold l t).get q.session then { q with aborted := true } else q }).abortHalts t
    (x.revokedHold l t).get

/-- Every revoked session hears of it. -/
def frelTold (l t : Index) (x : State) : State :=
  indices.foldl (revokeStep t (frelHeld l (x.rc t)) (frelLocked l (x.rc t))) (x.frelStart l t)

theorem frelStart_ran : x.Ran x (x.frelStart l t) t (frelAborts l (x.rc t)) (frelCut l (x.rc t)) [] := by
  have hheld : (x.revokedHold l t).get = frelHeld l (x.rc t) := funext (x.revokedHold_get l t)
  have hseq (q : StepSeq) : (if frelHeld l (x.rc t) q.session then { q with aborted := true } else q) =
      { q with aborted := q.aborted || frelHeld l (x.rc t) q.session } := by
    cases frelHeld l (x.rc t) q.session <;> simp
  have h := ((Ran.refl x t).modRc fun r =>
    { r with
      hold := { members := (Quad.all false).set l (r.hold.has l), self := false }
      stepSeq := r.stepSeq.map fun q => if frelHeld l (x.rc t) q.session then { q with aborted := true } else q }).answerWaiters
    (fun w => w.kind == .halt && frelHeld l (x.rc t) w.session) .aborted
  unfold frelStart abortHalts
  rw [hheld]
  refine h.congr rfl ?_ rfl
  simp only [hseq]
  rfl

theorem frelTold_does : (x.frelStart l t).Does (x.frelTold l t) (x.frelStart l t) []
    ((x.frelStart l t).revokedNotice t (frelHeld l (x.rc t)) (frelLocked l (x.rc t))) :=
  ((x.frelStart l t).revokeAll_does t _ _ indices (by decide) (x.frelStart l t) fun _ => rfl).congr rfl rfl fun n => if_pos (mem_indices n)

theorem frelTold_own : (x.frelTold l t).notice l = x.notice l := by
  have hown : (frelHeld l (x.rc t) l || frelLocked l (x.rc t) l) = false := by simp [frelHeld, frelLocked]
  refine (revokeAll_other t _ _ hown indices (x.frelStart l t)).trans ?_
  exact congrArg (fun ns : Quad NoticeQueue => ns.get l) (answerWaiters_notices _ t _ _)

/-- The action of Table 5-3. -/
def frelDone (l t : Index) (x : State) : State :=
  if (x.rc t).run = .halted ∧ (x.rc t).hold ≠ frelHold l (x.rc t) then (x.frelTold l t).afterHoldChange t else x.frelTold l t

/-- The lock of another session is cleared. -/
def frelFreed (l t : Index) (x : State) : State :=
  if (x.rc t).lockedAgainst l then ((x.frelDone l t).modRc t fun r => { r with lock := none }).notifyState t else x.frelDone l t

theorem frelTold_rc : (x.frelTold l t).rc t = frelCut l (x.rc t) :=
  (rc_of_mute (x.frelTold_does l t).mute t).trans (x.frelStart_ran l t).rc

theorem frelTold_acc : (x.frelTold l t).acc t = x.acc t :=
  (acc_of_mute (x.frelTold_does l t).mute t).trans ((x.frelStart_ran l t).acc t)

/-- The action and the lock, from the REVOKED notices on. -/
theorem frelFreed_ran :
    let y := x.frelTold l t
    y.Ran (if frelReleases l (x.acc t) (x.rc t) then y.handRc t .run else y) (x.frelFreed l t) t [] (frelRc l (x.acc t) (x.rc t))
        (frelStates l t (x.acc t) (x.rc t)) ∧
      y.Exact (x.frelFreed l t) l (y.toWatchers t (frelStates l t (x.acc t) (x.rc t)) l) := by
  intro y
  have hnone : y.toWatchers t [] l = [] := by
    unfold toWatchers
    split <;> rfl
  have hdone : y.Ran (if frelReleases l (x.acc t) (x.rc t) then y.handRc t .run else y) (x.frelDone l t) t []
      (frelActed l (x.acc t) (x.rc t))
      (if (x.rc t).run = .halted ∧ (x.rc t).hold ≠ frelHold l (x.rc t) then [stateOf t (frelActed l (x.acc t) (x.rc t))] else []) ∧
      y.Exact (x.frelDone l t) l (y.toWatchers t
        (if (x.rc t).run = .halted ∧ (x.rc t).hold ≠ frelHold l (x.rc t) then [stateOf t (frelActed l (x.acc t) (x.rc t))] else []) l) := by
    have h0 := Ran.refl y t
    rw [show y.rc t = frelCut l (x.rc t) from x.frelTold_rc l t] at h0
    by_cases hacts : (x.rc t).run = .halted ∧ (x.rc t).hold ≠ frelHold l (x.rc t)
    · have h1 := h0.holdMoved
      rw [show y.acc t = x.acc t from x.frelTold_acc l t] at h1
      have hz : frelReleases l (x.acc t) (x.rc t) = ((frelCut l (x.rc t)).hold.isEmpty && !(x.acc t).inFlight) := by
        simp [frelReleases, hacts.1, bne_iff_ne.2 hacts.2, frelCut]
      have hrc : frelActed l (x.acc t) (x.rc t) = holdMovedRc (x.acc t) (frelCut l (x.rc t)) := if_pos hacts
      unfold frelDone
      rw [if_pos hacts, if_pos hacts, afterHoldChange_eq, hz, hrc]
      have hstart : y.Exact y l (y.toWatchers t [] l) := by
        rw [hnone]
        exact Exact.of_notices rfl
      exact Ran.notified hstart h1 (holdMoved_silent y t).1 (holdMoved_silent y t).2
    · have hrel : frelReleases l (x.acc t) (x.rc t) = false := by
        simp only [frelReleases]
        simp only [not_and_or, not_not] at hacts
        rcases hacts with hrun | hhold
        · simp [hrun]
        · simp [← hhold]
      have hrc : frelActed l (x.acc t) (x.rc t) = frelCut l (x.rc t) := if_neg hacts
      unfold frelDone
      rw [if_neg hacts, if_neg hacts, hrel, hrc, hnone]
      exact ⟨h0, Exact.of_notices rfl⟩
  unfold frelFreed frelStates
  cases hlock : (x.rc t).lockedAgainst l with
  | true =>
    have h1 := hdone.1.modRc fun r => { r with lock := none }
    have hrc : { frelActed l (x.acc t) (x.rc t) with lock := none } = frelRc l (x.acc t) (x.rc t) := by simp [frelRc, hlock]
    rw [hrc] at h1
    exact Ran.notified hdone.2 h1 rfl rfl
  | false =>
    rw [frelRc_of_free l _ _ hlock, if_neg Bool.false_ne_true, if_neg Bool.false_ne_true, List.append_nil]
    exact hdone

/-- FREL of the supervisor in its stages. -/
theorem takeFrel_eq (tag : Byte) (hsup : x.isSupervisor l = true) : x.takeFrel l tag t = (x.frelFreed l t).respondNow l
    { tag, status := .ok, kind := 0x16
      payload := [(frelHold l (x.rc t)).byte, ownerByte (frelRc l (x.acc t) (x.rc t)).lock,
        quadByte ⟨frelHeld l (x.rc t) 0 || frelLocked l (x.rc t) 0, frelHeld l (x.rc t) 1 || frelLocked l (x.rc t) 1,
          frelHeld l (x.rc t) 2 || frelLocked l (x.rc t) 2, frelHeld l (x.rc t) 3 || frelLocked l (x.rc t) 3⟩] } := by
  have hfold : (fun s' m => if (x.revokedHold l t).get m || (x.revokedLock l t).get m then
      s'.queueNotice m (.revokedClaims t ((x.revokedHold l t).get m) ((x.revokedLock l t).get m)) else s') =
      revokeStep t (frelHeld l (x.rc t)) (frelLocked l (x.rc t)) := by
    funext s' m
    rw [revokedHold_get, revokedLock_get]
    rfl
  have hhold : (frelRc l (x.acc t) (x.rc t)).hold = frelHold l (x.rc t) := by
    unfold frelRc
    rw [frelActed_eq]
    rfl
  have hdone : (if (x.rc t).run = .halted ∧ frelHold l (x.rc t) ≠ (x.rc t).hold then (x.frelTold l t).afterHoldChange t
      else x.frelTold l t) = x.frelDone l t := if_congr (and_congr Iff.rfl ne_comm) rfl rfl
  have hfreed : (if x.revokedLock l t = .all false then x.frelDone l t
      else ((x.frelDone l t).modRc t fun r => { r with lock := none }).notifyState t) = x.frelFreed l t := by
    unfold frelFreed
    cases hlock : (x.rc t).lockedAgainst l with
    | true => exact if_neg fun h => by simp [(x.revokedLock_eq_none l t).1 h] at hlock
    | false => exact if_pos ((x.revokedLock_eq_none l t).2 hlock)
  have hr : (x.frelFreed l t).rc t = frelRc l (x.acc t) (x.rc t) := (x.frelFreed_ran l t).1.rc
  have hq : (⟨(x.revokedHold l t).q0 || (x.revokedLock l t).q0, (x.revokedHold l t).q1 || (x.revokedLock l t).q1,
      (x.revokedHold l t).q2 || (x.revokedLock l t).q2, (x.revokedHold l t).q3 || (x.revokedLock l t).q3⟩ : Quad Bool) =
      ⟨frelHeld l (x.rc t) 0 || frelLocked l (x.rc t) 0, frelHeld l (x.rc t) 1 || frelLocked l (x.rc t) 1,
        frelHeld l (x.rc t) 2 || frelLocked l (x.rc t) 2, frelHeld l (x.rc t) 3 || frelLocked l (x.rc t) 3⟩ := by
    simp only [← revokedHold_get, ← revokedLock_get]
    rfl
  rw [← hq, ← hhold, ← hr, ← hfreed, ← hdone]
  unfold takeFrel frelTold
  rw [if_neg (by simp [hsup]), ← hfold]
  simp only [modRc_rc_self]
  rfl

end

end Sys2Proof.Machine.State
end

section
/-! PROOF. What FREL leaves and sends, in one account (R104 to R108). -/

namespace Sys2Proof.Machine.State

section

variable (x : State) (l t : Index)

theorem ran_then (z : State) (t : Index) (rs : List Answer) (r r' : RunControl) : (z.ran t rs r).ran t [] r' = z.ran t rs r' := by
  exact modRc_modRc ((z.leaves rs)) t (fun _ => r) fun _ => r'

/-- FREL before its response: the answers to the aborted HALTs, a REVOKED notice before the STATE notices, and the state left. -/
theorem frelFreed_does : x.Does (x.frelFreed l t)
    ((if frelReleases l (x.acc t) (x.rc t) then x.handRc t .run else x).ran t (frelAborts l (x.rc t)) (frelRc l (x.acc t) (x.rc t)))
    (frelAborts l (x.rc t)) fun n => x.revokedNotice t (frelHeld l (x.rc t)) (frelLocked l (x.rc t)) n ++
      x.toWatchers t (frelStates l t (x.acc t) (x.rc t)) n := by
  have hstart := x.frelStart_ran l t
  have htold := x.frelTold_does l t
  have hfreed := (x.frelFreed_ran l t).1
  have htoldOpen (n : Index) : (x.frelTold l t).isOpen n = x.isOpen n := (isOpen_of_mute htold.mute n).trans (hstart.isOpen n)
  have htoldWatches (n : Index) : (x.frelTold l t).watches n t = x.watches n t :=
    (watches_of_mute htold.mute n t).trans (hstart.watches n t)
  have hmute : (x.frelTold l t).mute = (x.ran t (frelAborts l (x.rc t)) (frelCut l (x.rc t))).mute := htold.mute.trans hstart.mute
  have hbase (y : State) : ((y.ran t (frelAborts l (x.rc t)) (frelCut l (x.rc t))).ran t [] (frelRc l (x.acc t) (x.rc t))).mute =
      (y.ran t (frelAborts l (x.rc t)) (frelRc l (x.acc t) (x.rc t))).mute := congrArg mute (ran_then ..)
  refine ((hstart.does.trans hstart.isOpen htold).trans htoldOpen hfreed.does).congr ?_ (by simp) fun n => ?_
  · cases frelReleases l (x.acc t) (x.rc t) with
    | true =>
      have hhand := handRc_of_mute hmute t .run
      rw [handRc_ran] at hhand
      exact (ran_of_mute hhand t _ _).trans (hbase _)
    | false => exact (ran_of_mute hmute t _ _).trans (hbase _)
  · have hopen : (x.frelStart l t).isOpen n = x.isOpen n := hstart.isOpen n
    simp only [toWatchers, htoldWatches, revokedNotice, hopen]
    split <;> rfl

/-- FREL as each session has it: `s` before the request, `x` when its owner takes it. -/
theorem frelFreed_replies {s : State} (hq : s.Quiet x) (ho : s.isOpen l = true) (hnotice : (x.frelTold l t).notice l = s.notice l) (resp : Response) :
    let s' := (x.frelFreed l t).respondNow l resp
    s'.mute = (if frelReleases l (x.acc t) (x.rc t) then
        (x.ran t (frelAborts l (x.rc t)) (frelRc l (x.acc t) (x.rc t))).handRc t .run
      else x.ran t (frelAborts l (x.rc t)) (frelRc l (x.acc t) (x.rc t))).mute ∧
    (∀ n, n ≠ l → s.heard s' n (s.revokedNotice t (frelHeld l (x.rc t)) (frelLocked l (x.rc t)) n ++
        if s.watches n t then frelStates l t (x.acc t) (x.rc t) else []) ∧
      (s'.link n).respQ = (s.link n).respQ ++ ((frelAborts l (x.rc t)).filter fun a => a.1 == n && s.isOpen n).map
        fun a => { owner := .session, resp := a.2 }) ∧
    s.replied s' l resp (if s.watches l t then frelStates l t (x.acc t) (x.rc t) else []) := by
  have hdoes := x.frelFreed_does l t
  have hexact := (x.frelFreed_ran l t).2
  have hopens (n : Index) : (x.frelFreed l t).isOpen n = x.isOpen n := by
    rw [isOpen_of_mute hdoes.mute]
    split
    · rw [ran_isOpen, handRc_isOpen]
    · rw [ran_isOpen]
  have hanswered := hq.answered hdoes.sends.answered
  have hheard (n : Index) : s.heard (x.frelFreed l t) n (s.revokedNotice t (frelHeld l (x.rc t)) (frelLocked l (x.rc t)) n ++
      if s.watches n t then frelStates l t (x.acc t) (x.rc t) else []) := by
    have hn := hq.heard (hdoes.sends.heard n)
    simpa only [revokedNotice, toWatchers, hq.isOpen, hq.watches] using hn
  have hown : s.revokedNotice t (frelHeld l (x.rc t)) (frelLocked l (x.rc t)) l = [] := by
    simp [revokedNotice, frelHeld, frelLocked]
  have hsaid : s.Said (x.frelFreed l t) l [] (if s.watches l t then frelStates l t (x.acc t) (x.rc t) else []) :=
    { isOpen := (hopens l).trans ((hq.isOpen l).trans ho)
      respQ := by
        have hnone : ((frelAborts l (x.rc t)).filter fun a => a.1 == l && s.isOpen l) = [] :=
          List.filter_eq_nil_iff.2 fun a ha => by simp [frelAborts_others l (x.rc t) a ha]
        rw [hanswered l, hnone]
        rfl
      heard := by
        have hl := hheard l
        rwa [hown, List.nil_append] at hl
      exact := fun hwaiting => by
        have hw : (x.frelTold l t).watches l t = s.watches l t :=
          (watches_of_mute (x.frelTold_does l t).mute l t).trans (((x.frelStart_ran l t).watches l t).trans (hq.watches l t))
        rw [hexact hwaiting, hnotice, toWatchers, hw] }
  obtain ⟨hmute, hothers⟩ := (x.frelFreed l t).respondNow_spec l resp
  refine ⟨hmute.trans (hdoes.mute.trans ?_), fun n hn => ⟨?_, ?_⟩, hsaid.respondNow resp⟩
  · split
    · rw [handRc_ran]
    · rfl
  · rw [State.heard, (hothers n hn).2]
    exact hheard n
  · rw [(hothers n hn).1]
    exact hanswered n

end

/-- The Run Control Unit after a forced release, by its fields. -/
theorem frelRc_eq (l : Index) (a : AccessEngine) (r : RunControl) : frelRc l a r =
    { frelCut l r with
      run := if frelReleases l a r then .releasing else r.run
      lock := if r.lockedAgainst l then none else r.lock
      relDefer := if r.run = .halted ∧ r.hold ≠ frelHold l r ∧ (frelHold l r).isEmpty then a.inFlight else r.relDefer } := by
  unfold frelRc
  rw [frelActed_eq]

/-- The STATE notices of a forced release, by their fields. -/
theorem frelStates_eq (l t : Index) (a : AccessEngine) (r : RunControl) : frelStates l t a r =
    let run : RunState := if frelReleases l a r then .releasing else r.run
    let state (lock : Option Index) : NoticeBody :=
      .state t run (frelHold l r) lock (if run = .halted then some (r.haltCause, r.lastPc) else none)
    (if r.run = .halted ∧ r.hold ≠ frelHold l r then [state r.lock] else []) ++ if r.lockedAgainst l then [state none] else [] := by
  unfold frelStates stateOf
  rw [frelRc_eq, frelActed_eq]
  cases r.lockedAgainst l <;> rfl

/-- Settles O32: the stages of FREL, whose REVOKED notices reach every session but the supervisor that asks. -/
theorem frelRevokesOthers : Obligations.FrelRevokesOthers := by
  unfold Obligations.FrelRevokesOthers
  intro s l t tag h hsup
  have htaken : exec (.frel l tag (indexByte t)) s = .next ((s.afterDelivery l).takeFrel l tag t) :=
    congrArg Host.Outcome.next ((s.requestArrives_targeted l t tag (q := .frel (indexByte t)) h
      (fun hk => absurd hk (show (0x16 : Byte) ∉ Request.deferredKinds by decide)) rfl
      fun _ => rfl).trans (atTarget_indexByte _ t fun i => takeFrel l tag i))
  refine ⟨_, htaken.trans (congrArg Host.Outcome.next (takeFrel_eq _ l t tag (by simpa using hsup))), ?_⟩
  have hreplies := (s.afterDelivery l).frelFreed_replies l t (s.afterDelivery_quiet l) (isOpen_of_requestOpen s l tag h)
    ((s.afterDelivery l).frelTold_own l t)
  simp only [frelStates_eq, frelRc_eq] at hreplies
  simp only [frelRc_eq]
  exact hreplies _

end Sys2Proof.Machine.State
end

section
/-! PROOF. The transmit arbiter and the places of a response queue (R136, R163, R164, R166), and what a notice queue takes (R130). -/

namespace Sys2Proof.Machine

/-! ### The entry offered (R136) -/

theorem NoticeQueue.markSent_eq_replace {es : List NoticeEntry} {e : NoticeEntry} (h : es.find? (fun x => !x.sent) = some e) :
    NoticeQueue.markSent es = es.replace e { e with sent := true } := by
  induction es with
  | nil => cases h
  | cons x xs ih =>
    unfold NoticeQueue.markSent
    cases hx : x.sent with
    | true =>
      rw [List.find?_cons_of_neg (by simp [hx])] at h
      have hne : (e == x) = false := by
        rw [beq_eq_false_iff_ne]
        rintro rfl
        have hunsent := List.find?_some h
        simp [hx] at hunsent
      rw [if_pos rfl, ih h, List.replace_cons, hne]
    | false =>
      rw [List.find?_cons_of_pos (by simp [hx])] at h
      cases h
      simp

namespace State

/-! ### The arbiter (R166) -/

section

variable (s : State) (l : Index)

/-- A transmitter that is sending goes on. -/
theorem arbitrate_of_sending (h : (s.link l).tx ≠ .free) : s.arbitrate l = s := by
  unfold arbitrate
  cases htx : (s.link l).tx with
  | free => exact absurd htx h
  | response f => rfl
  | notice f => rfl

variable {s l} (hfree : (s.link l).tx = .free)

include hfree

theorem arbitrate_of_response {e : RespEntry} {es : List RespEntry} (hq : (s.link l).respQ = e :: es) :
    s.arbitrate l = s.modLink l fun u => { u with tx := .response e.resp.frame } := by
  unfold arbitrate
  rw [hfree, hq]

theorem arbitrate_of_offer {e : NoticeEntry} (hq : (s.link l).respQ = []) (ho : (s.notice l).offer? = some e) :
    s.arbitrate l = (s.modNotice l fun q => { q with entries := NoticeQueue.markSent q.entries }).modLink l
      fun u => { u with tx := .notice e.frame } := by
  unfold arbitrate
  rw [hfree, hq, ho]

theorem arbitrate_of_none (hq : (s.link l).respQ = []) (ho : (s.notice l).offer? = none) : s.arbitrate l = s := by
  unfold arbitrate
  rw [hfree, hq, ho]

/-- A free transmitter begins the oldest response, and the notices stay. -/
theorem arbitrate_begins_response : ∀ e ∈ (s.link l).respQ.head?,
    ((s.arbitrate l).link l).tx = .response e.resp.frame ∧ (s.arbitrate l).notice l = s.notice l := by
  intro e he
  obtain ⟨es, hq⟩ : ∃ es, (s.link l).respQ = e :: es := by
    cases hq : (s.link l).respQ with
    | nil => simp [hq] at he
    | cons x xs =>
      rw [hq] at he
      exact ⟨xs, by rw [Option.mem_some_iff.1 he]⟩
  rw [arbitrate_of_response hfree hq]
  exact ⟨by simp, rfl⟩

/-- With no response it begins the oldest notice not yet sent. -/
theorem arbitrate_begins_notice (hq : (s.link l).respQ = []) : ∀ e ∈ (s.notice l).entries.find? fun e => !e.sent,
    ((s.arbitrate l).link l).tx = .notice e.frame ∧
      (s.arbitrate l).notice l = { s.notice l with entries := (s.notice l).entries.replace e { e with sent := true } } := by
  intro e he
  rw [arbitrate_of_offer hfree hq he, ← NoticeQueue.markSent_eq_replace he]
  refine ⟨by simp, ?_⟩
  rw [show ((s.modNotice l fun q => { q with entries := NoticeQueue.markSent q.entries }).modLink l
    fun u => { u with tx := .notice e.frame }).notice l =
      (s.modNotice l fun q => { q with entries := NoticeQueue.markSent q.entries }).notice l from rfl]
  simp

end

/-- What the queue of Sn holds when it is offered. -/
theorem arbitrate_becomes (s : State) (n : Index) : s.becomes (s.arbitrate n) n (s.notice n).entries (s.notice n).nextSeq := by
  have hnext : ((s.arbitrate n).notice n).nextSeq = (s.notice n).nextSeq := congrArg Prod.snd ((s.arbitrate_spec n).2.2.1 n)
  refine ⟨hnext, fun hsending => ?_, fun hfree e he => ?_, fun hfree hq => ⟨fun e he => ?_, fun hall => ?_⟩⟩
  · rw [arbitrate_of_sending s n hsending]
    exact ⟨rfl, rfl⟩
  · obtain ⟨htx, hnotice⟩ := arbitrate_begins_response hfree e he
    exact ⟨by rw [hnotice], htx⟩
  · obtain ⟨htx, hnotice⟩ := arbitrate_begins_notice hfree hq e he
    exact ⟨by rw [hnotice], htx⟩
  · have hnone : (s.notice n).offer? = none := List.find?_eq_none.2 fun e he => by simp [hall e he]
    rw [arbitrate_of_none hfree hq hnone]
    exact ⟨rfl, hfree⟩

/-! ### The end of a frame (R162, R166) -/

/-- The link once its frame has been sent. -/
def txFreed (u : LinkUnit) : LinkUnit :=
  { u with tx := .free, respQ := match u.tx with | .response _ => u.respQ.tail | _ => u.respQ }

theorem frameEnds_of_free {s : State} {l : Index} (h : (s.link l).tx = .free) : s.frameEnds l = s := by
  unfold frameEnds
  rw [h]

theorem frameEnds_of_sending {s : State} {l : Index} (h : (s.link l).tx ≠ .free) :
    s.frameEnds l = (s.modLink l txFreed).arbitrate l := by
  unfold frameEnds
  cases htx : (s.link l).tx with
  | free => exact absurd htx h
  | response f => exact congrArg (arbitrate l) (modLink_congr s l (by simp [txFreed, htx]))
  | notice f => exact congrArg (arbitrate l) (modLink_congr s l (by simp [txFreed, htx]))

/-! ### Placing a response (R163) -/

/-- A response placed: the queue and the transmitter. -/
theorem place_begins (s : State) (l : Index) (o : RespOwner) (r : Response) :
    ((s.place l o r).link l).respQ = (s.link l).respQ ++ [{ owner := o, resp := r }] ∧ (s.place l o r).notice l = s.notice l ∧
      ((s.place l o r).link l).tx =
        if (s.link l).tx = .free then .response (((s.link l).respQ.map (·.resp)).headD r).frame else (s.link l).tx := by
  set x := s.modLink l fun u => { u with respQ := u.respQ ++ [{ owner := o, resp := r }] } with hx
  have hlink : x.link l = { s.link l with respQ := (s.link l).respQ ++ [{ owner := o, resp := r }] } := by simp [hx]
  have hplace : s.place l o r = x.arbitrate l := rfl
  refine ⟨by simpa using (s.place_spec l o r).2.1 l, ?_, ?_⟩
  · exact congrArg (fun ns : Quad NoticeQueue => ns.get l) (arbitrate_notices_of_placed s l o r)
  · rw [hplace]
    by_cases hfree : (s.link l).tx = .free
    · rw [if_pos hfree]
      have hfree' : (x.link l).tx = .free := by rw [hlink]; exact hfree
      obtain ⟨e, he, hresp⟩ : ∃ e ∈ (x.link l).respQ.head?, e.resp = ((s.link l).respQ.map (·.resp)).headD r := by
        rw [hlink]
        cases (s.link l).respQ with
        | nil => exact ⟨_, rfl, rfl⟩
        | cons e es => exact ⟨e, rfl, rfl⟩
      rw [(arbitrate_begins_response hfree' e he).1, hresp]
    · rw [if_neg hfree, arbitrate_of_sending x l (by rw [hlink]; exact hfree), hlink]

theorem respondDeferred_others (s : State) (l : Index) (r : Response) : s.othersSilent (s.respondDeferred l r) l := by
  unfold respondDeferred
  split
  · exact (place_spec (s.leaveWindow l r.tag) l _ r).2.2.2
  · exact fun n _ => ⟨rfl, rfl⟩

/-- Settles O47: the arbiter after a frame, and the two ways to give a response. -/
theorem arbiterAndPlaces : Obligations.ArbiterAndPlaces := by
  unfold Obligations.ArbiterAndPlaces
  refine ⟨fun s l => ⟨s.frameEnds l, rfl, ?_⟩, fun s l r => ?_⟩
  · beta_reduce
    intro u left offered
    by_cases hfree : (s.link l).tx = .free
    · rw [frameEnds_of_free hfree]
      exact ⟨rfl, fun n _ => ⟨rfl, rfl⟩, fun _ => rfl, fun h => absurd hfree h⟩
    · rw [frameEnds_of_sending hfree]
      obtain ⟨hmute, hrespQ, -, hothers⟩ := (s.modLink l txFreed).arbitrate_spec l
      have hlink : (s.modLink l txFreed).link l = txFreed (s.link l) := by simp
      have hfreed : ((s.modLink l txFreed).link l).tx = .free := by rw [hlink]; rfl
      have hleft : ((s.modLink l txFreed).link l).respQ = left := by rw [hlink]; rfl
      refine ⟨hmute.trans (mute_modLink_queue s l rfl), fun n hn => ?_, fun h => absurd h hfree,
        fun _ => ⟨(hrespQ l).trans hleft, fun e he => ?_, fun hnil e he => ?_, fun hnil hnone => ?_⟩⟩
      · rw [(hothers n hn).1, (hothers n hn).2]
        exact ⟨modLink_link_of_ne s _ hn, rfl⟩
      · exact arbitrate_begins_response hfreed e (by rw [hleft]; exact he)
      · obtain ⟨htx, hnotice⟩ := arbitrate_begins_notice hfreed (hleft.trans hnil) e he
        rw [hnotice]
        exact ⟨htx, rfl, rfl⟩
      · rw [arbitrate_of_none hfreed (hleft.trans hnil) hnone]
        exact ⟨hfreed, rfl⟩
  · intro q now later
    obtain ⟨hmute, hothers⟩ := s.respondNow_spec l r
    refine ⟨hmute, hothers, s.respondDeferred_others l r, fun hroom => ?_, fun hfull => ?_, fun hopen => ?_, fun hclosed => if_neg hclosed⟩
    · rw [show now = _ from respondNow_placed s l hroom]
      exact s.place_begins l _ r
    · have hnow : now = s.queueNotice l (.linkFault 1) := respondNow_discarded s l hfull
      obtain ⟨-, hrespQ, hcontents, -⟩ := s.queueNotice_spec l (.linkFault 1)
      refine ⟨hnow, by rw [hnow]; exact hrespQ l, ?_⟩
      rw [hnow, State.heard, hcontents l]
      cases s.isOpen l <;> simp
    · have hlater : later = (s.leaveWindow l r.tag).place l .session r := if_pos hopen
      rw [hlater]
      exact ⟨(place_spec _ l _ r).1, (s.leaveWindow l r.tag).place_begins l .session r⟩

end State

/-! ### What a queue takes (R130, R134) -/

namespace NoticeQueue

variable (q : NoticeQueue) (b : NoticeBody)

theorem hasOverrun_iff : q.hasOverrun = true ↔ ∃ x ∈ q.entries, x.body = .overrun := by
  simp [hasOverrun]

theorem takesFaults_iff (x : NoticeEntry) : x.takesFaults = true ↔ x.body.isFault = true ∧ x.sent = false ∧ x.keepsCount = false := by
  simp only [NoticeEntry.takesFaults, NoticeEntry.mayCount, Bool.and_eq_true, Bool.not_eq_true']
  tauto

theorem coalesces_iff : (b.isFault && q.entries.any (·.takesFaults)) = true ↔ b.isFault = true ∧ ∃ x ∈ q.entries, x.takesFaults = true := by
  simp

theorem take_of_overrun (h : q.hasOverrun = true) : q.take b = q := if_pos h

variable {q b} (hno : ¬ q.hasOverrun = true)

include hno

theorem take_of_coalesces (h : (b.isFault && q.entries.any (·.takesFaults)) = true) :
    q.take b = { q with entries := coalesceFault q.entries } := by
  unfold take
  rw [if_neg hno, if_pos h]

theorem take_of_room (h : ¬ (b.isFault && q.entries.any (·.takesFaults)) = true) (hroom : q.entries.length < 15) :
    q.take b = q.append b := by
  unfold take
  rw [if_neg hno, if_neg h, if_pos (by exact hroom)]

theorem take_of_full (h : ¬ (b.isFault && q.entries.any (·.takesFaults)) = true) (hfull : 15 ≤ q.entries.length) :
    q.take b = q.append .overrun := by
  unfold take
  rw [if_neg hno, if_neg h, if_neg (Nat.not_lt.2 (by exact hfull))]

end NoticeQueue

/-- The oldest entry that takes faults counts one more. -/
theorem coalesceFault_append {old new : List NoticeEntry} {e : NoticeEntry} (he : e.takesFaults = true)
    (hold : ∀ x ∈ old, ¬ x.takesFaults = true) : coalesceFault (old ++ e :: new) = old ++ e.addFault :: new := by
  induction old with
  | nil => exact if_pos he
  | cons x xs ih =>
    have hx := hold x List.mem_cons_self
    exact (if_neg hx).trans (congrArg (x :: ·) (ih fun y hy => hold y (List.mem_cons_of_mem _ hy)))

namespace State

/-- A queue that takes a notice holds what `take` gives, and is offered. -/
theorem queueNotice_becomes {s : State} {n : Index} (b : NoticeBody) (ho : s.isOpen n = true) :
    s.becomes (s.queueNotice n b) n ((s.notice n).take b).entries ((s.notice n).take b).nextSeq := by
  have h := (s.modNotice n (·.take b)).arbitrate_becomes n
  rw [modNotice_notice_self] at h
  unfold queueNotice
  rw [if_pos ho]
  exact h

/-- Settles O38: the lines of R130 in their order. -/
theorem noticeTakenByFirstLine : Obligations.NoticeTakenByFirstLine := by
  unfold Obligations.NoticeTakenByFirstLine
  intro s n b c old new e q u overrun takes coalesces
  have hover : overrun ↔ q.hasOverrun = true := q.hasOverrun_iff.symm
  have htakes (x : NoticeEntry) : takes x ↔ x.takesFaults = true := (NoticeQueue.takesFaults_iff x).symm
  have hcoalesces : coalesces ↔ (b.isFault && q.entries.any (·.takesFaults)) = true := by
    rw [NoticeQueue.coalesces_iff]
    exact and_congr Iff.rfl (exists_congr fun x => and_congr Iff.rfl (htakes x))
  refine ⟨fun hclosed => if_neg hclosed, fun ho => ?_⟩
  obtain ⟨hmute, hrespQ, -, hothers⟩ := s.queueNotice_spec n b
  have hbecomes := queueNotice_becomes b ho
  refine ⟨hmute, hothers, hrespQ n, fun h => ?_, fun hno hb hentries hbody he hold => ?_, fun hno hnone hroom => ?_,
    fun hno hnone hfull => ?_⟩
  · rwa [NoticeQueue.take_of_overrun q b (hover.1 h)] at hbecomes
  · have hany : (b.isFault && q.entries.any (·.takesFaults)) = true := by
      rw [NoticeQueue.coalesces_iff]
      exact ⟨hb, e, by rw [hentries]; simp, (htakes e).1 he⟩
    rw [NoticeQueue.take_of_coalesces (mt hover.2 hno) hany] at hbecomes
    have hadd : e.addFault = { e with body := .linkFault (if c < 255 then c + 1 else 255) } := by
      unfold NoticeEntry.addFault
      rw [hbody]
    rw [← hadd, ← coalesceFault_append ((htakes e).1 he) fun x hx => mt (htakes x).2 (hold x hx), ← hentries]
    exact hbecomes
  · rwa [NoticeQueue.take_of_room (mt hover.2 hno) (mt hcoalesces.2 hnone) hroom] at hbecomes
  · rwa [NoticeQueue.take_of_full (mt hover.2 hno) (mt hcoalesces.2 hnone) hfull] at hbecomes

end State

end Sys2Proof.Machine
end

section
/-! PROOF. ACK and REPLAY (R138, R140), and OPEN (R114, R115). -/

namespace Sys2Proof.Machine

/-! ### Entries that leave or are sent again -/

namespace NoticeQueue

theorem afterSeq?_eq_none {seq : Byte} {es : List NoticeEntry} (h : ∀ x ∈ es, x.seq ≠ seq) : afterSeq? seq es = none := by
  induction es with
  | nil => rfl
  | cons x xs ih => exact (if_neg (h x List.mem_cons_self)).trans (ih fun y hy => h y (List.mem_cons_of_mem _ hy))

theorem afterSeq?_append {seq : Byte} {old new : List NoticeEntry} {e : NoticeEntry} (he : e.seq = seq) (h : ∀ x ∈ old, x.seq ≠ seq) :
    afterSeq? seq (old ++ e :: new) = some new := by
  induction old with
  | nil => exact if_pos he
  | cons x xs ih => exact (if_neg (h x List.mem_cons_self)).trans (ih fun y hy => h y (List.mem_cons_of_mem _ hy))

/-- The entries after a REPLAY, each by its place. -/
theorem unsend_eq_mapIdx (older : Bool) (es : List NoticeEntry) : unsend older es = es.mapIdx fun i e =>
    { e with
      sent := false
      keepsCount := e.keepsCount ||
        (e.body.isFault && !e.sent && (older || (es.take i).any fun x => x.body.isFault && x.sent && !x.keepsCount)) } := by
  induction es generalizing older with
  | nil => rfl
  | cons x xs ih =>
    have hstep : (older || (x.mayCount && x.sent)) = (older || (x.body.isFault && x.sent && !x.keepsCount)) := by
      unfold NoticeEntry.mayCount
      cases x.body.isFault <;> cases x.keepsCount <;> simp
    have hkeeps : (x.keepsCount || (older && x.takesFaults)) = (x.keepsCount || (x.body.isFault && !x.sent && older)) := by
      unfold NoticeEntry.takesFaults NoticeEntry.mayCount
      cases x.keepsCount <;> cases x.body.isFault <;> simp [Bool.and_comm]
    rw [unsend, ih, List.mapIdx_cons, hstep, hkeeps]
    simp [Bool.or_assoc]

theorem unsend_sent {older : Bool} {es : List NoticeEntry} : ∀ x ∈ unsend older es, x.sent = false := fun _ h => (of_mem_unsend h).1

/-- The oldest entry is the one offered when none has been sent. -/
theorem find?_of_unsent {es : List NoticeEntry} (h : ∀ x ∈ es, x.sent = false) : es.find? (fun e => !e.sent) = es.head? := by
  cases es with
  | nil => rfl
  | cons x xs => exact List.find?_cons_of_pos (by simp [h x List.mem_cons_self])

end NoticeQueue

namespace State

/-! ### An immediate response in a state whose notices changed -/

section

variable (x : State) (l : Index) (r : Response)

theorem placed_iff : Config.immediateNeeds ≤ x.freePlaces l ↔ (x.link l).respQ.length ≤ 3 := by
  simp only [freePlaces, Config.immediateNeeds, Config.respPlaces]
  omega

/-- What an immediate response does to the queues of an open session. -/
theorem respondNow_queues (ho : x.isOpen l = true) :
    ((x.respondNow l r).link l).respQ = (x.link l).respQ ++
        (if Config.immediateNeeds ≤ x.freePlaces l then [{ owner := .session, resp := r }] else []) ∧
      ((x.respondNow l r).notice l).contents =
        ((if Config.immediateNeeds ≤ x.freePlaces l then [] else [.linkFault 1]).foldl NoticeQueue.take (x.notice l)).contents := by
  by_cases hroom : (x.link l).respQ.length ≤ 3
  · obtain ⟨hrespQ, hnotice, -⟩ := x.place_begins l .session r
    rw [respondNow_placed x l hroom, if_pos ho, if_pos ((placed_iff x l).2 hroom), if_pos ((placed_iff x l).2 hroom)]
    exact ⟨hrespQ, congrArg NoticeQueue.contents hnotice⟩
  · obtain ⟨-, hrespQ, hcontents, -⟩ := x.queueNotice_spec l (.linkFault 1)
    rw [respondNow_discarded x l (by omega), if_neg (mt (placed_iff x l).1 hroom), if_neg (mt (placed_iff x l).1 hroom)]
    refine ⟨(hrespQ l).trans (List.append_nil _).symm, ?_⟩
    exact (hcontents l).trans (if_pos ⟨rfl, ho⟩)

/-- A response that is placed leaves the notices and a transmitter that is sending. -/
theorem respondNow_of_room (hroom : (x.link l).respQ.length ≤ 3) : (x.respondNow l r).notice l = x.notice l ∧
    ((x.link l).tx ≠ .free → ((x.respondNow l r).link l).tx = (x.link l).tx) := by
  rw [respondNow_placed x l hroom]
  obtain ⟨-, hnotice, htx⟩ := x.place_begins l (if x.isOpen l then .session else .none) r
  exact ⟨hnotice, fun hsending => htx.trans (if_neg hsending)⟩

end

/-- The same, as the session's link and queue stood in `s`. -/
theorem respondNow_queues_from {s x : State} {l : Index} (r : Response) (ho : x.isOpen l = true) (hrespQ : (x.link l).respQ = (s.link l).respQ)
    (hothers : s.othersSilent x l) :
    let s' := x.respondNow l r
    s'.mute = x.mute ∧ s.othersSilent s' l ∧
      (s'.link l).respQ = (s.link l).respQ ++ (if Config.immediateNeeds ≤ s.freePlaces l then [{ owner := .session, resp := r }] else []) ∧
      (s'.notice l).contents =
        ((if Config.immediateNeeds ≤ s.freePlaces l then [] else [.linkFault 1]).foldl NoticeQueue.take (x.notice l)).contents := by
  obtain ⟨hmute, hsilent⟩ := x.respondNow_spec l r
  have hqueues := x.respondNow_queues l r ho
  have hplaces : x.freePlaces l = s.freePlaces l := by rw [freePlaces, freePlaces, hrespQ]
  rw [hplaces, hrespQ] at hqueues
  exact ⟨hmute, fun n hn => ⟨(hsilent n hn).1.trans (hothers n hn).1, (hsilent n hn).2.trans (hothers n hn).2⟩, hqueues⟩

section

variable {s : State} {l : Index} {tag : Byte}

theorem ack_taken {seq : Byte} (h : s.requestOpen l tag = true) :
    exec (.ack l tag seq) s = .next ((s.afterDelivery l).takeAck l tag seq) :=
  congrArg Host.Outcome.next (s.requestArrives_untargeted l tag (.ack seq) h (show (0x40 : Byte) ∉ Request.deferredKinds by decide) rfl
    fun _ => rfl)

theorem replay_taken (h : s.requestOpen l tag = true) : exec (.replay l tag) s = .next ((s.afterDelivery l).takeReplay l tag) :=
  congrArg Host.Outcome.next (s.requestArrives_untargeted l tag .replay h (show (0x41 : Byte) ∉ Request.deferredKinds by decide) rfl fun _ => rfl)

/-! ### A REPLAY's offer -/

/-- The entries of Sl are unsent again, and the oldest is offered. -/
def replayed (l : Index) (x : State) : State :=
  (x.modNotice l fun q => { q with entries := NoticeQueue.unsend false q.entries }).arbitrate l

variable (x : State)

theorem replayed_of_waiting (h : (x.link l).tx ≠ .free ∨ (x.link l).respQ ≠ []) :
    (x.replayed l).notice l = { x.notice l with entries := NoticeQueue.unsend false (x.notice l).entries } := by
  have hsame : (x.replayed l).notices = (x.modNotice l fun q => { q with entries := NoticeQueue.unsend false q.entries }).notices := by
    rcases h with hsending | hwaiting
    · exact congrArg State.notices (arbitrate_of_sending _ l hsending)
    · exact arbitrate_notices_of_waiting _ l hwaiting
  rw [notice, hsame]
  exact modNotice_notice_self ..

theorem replayed_of_idle (hfree : (x.link l).tx = .free) (hq : (x.link l).respQ = []) :
    ∀ e ∈ (NoticeQueue.unsend false (x.notice l).entries).head?, ((x.replayed l).link l).tx = .notice e.frame ∧
      ((x.replayed l).notice l).entries = { e with sent := true } :: (NoticeQueue.unsend false (x.notice l).entries).tail := by
  intro e he
  have hnotice : (x.modNotice l fun q => { q with entries := NoticeQueue.unsend false q.entries }).notice l =
      { x.notice l with entries := NoticeQueue.unsend false (x.notice l).entries } := modNotice_notice_self ..
  have hbegins := arbitrate_begins_notice (s := x.modNotice l fun q => { q with entries := NoticeQueue.unsend false q.entries }) hfree hq
  rw [hnotice] at hbegins
  obtain ⟨htx, hentries⟩ := hbegins e (by rw [NoticeQueue.find?_of_unsent NoticeQueue.unsend_sent]; exact he)
  refine ⟨htx, ?_⟩
  rw [replayed, hentries]
  cases hes : NoticeQueue.unsend false (x.notice l).entries with
  | nil => rw [hes] at he; cases he
  | cons y ys =>
    rw [hes] at he
    cases he
    simp

end

/-- Settles O39: the entries by their places, and what is offered when a REPLAY is answered. -/
theorem ackAndReplay : Obligations.AckAndReplay := by
  unfold Obligations.AckAndReplay
  refine ⟨fun s l tag seq old new e h => ⟨fun hnone => ?_, fun hentries he hold => ?_⟩, fun s l tag h => ?_⟩
  · refine completes_of_respondNow h (s.afterDelivery_sameVoice l) ((ack_taken h).trans (congrArg Host.Outcome.next ?_))
    unfold takeAck
    rw [show NoticeQueue.afterSeq? seq ((s.afterDelivery l).notice l).entries = none from NoticeQueue.afterSeq?_eq_none hnone]
    rfl
  · have hrest : NoticeQueue.afterSeq? seq ((s.afterDelivery l).notice l).entries = some new := by
      rw [show ((s.afterDelivery l).notice l).entries = old ++ e :: new from hentries]
      exact NoticeQueue.afterSeq?_append he hold
    have hcount : ((s.afterDelivery l).notice l).entries.length - new.length = old.length + 1 := by
      rw [show ((s.afterDelivery l).notice l).entries = old ++ e :: new from hentries, List.length_append, List.length_cons]
      omega
    have htake : (s.afterDelivery l).takeAck l tag seq =
        ((s.afterDelivery l).modNotice l fun q => { q with entries := new }).respondNow l
          { tag, status := .ok, kind := 0x40, payload := [byteOf (old.length + 1), byteOf new.length] } := by
      unfold takeAck
      rw [hrest, ← hcount]
    refine ⟨_, (ack_taken h).trans (congrArg Host.Outcome.next htake), ?_⟩
    have hvoice := s.afterDelivery_sameVoice l
    obtain ⟨hmute, hsilent, hrespQ, hcontents⟩ := respondNow_queues_from (s := s)
      (x := (s.afterDelivery l).modNotice l fun q => { q with entries := new })
      { tag, status := .ok, kind := 0x40, payload := [byteOf (old.length + 1), byteOf new.length] }
      (hvoice.isOpen.trans (isOpen_of_requestOpen s l tag h)) hvoice.respQ
      fun n hn => ⟨hvoice.links n hn, modNotice_notice_of_ne (s.afterDelivery l) _ hn⟩
    refine ⟨hmute.trans (mute_modNotice ..), hsilent, hrespQ, ?_⟩
    rwa [modNotice_notice_self] at hcontents
  · have hvoice := s.afterDelivery_sameVoice l
    have hbefore := (s.afterDelivery l).modNotice_notice_self l fun q => { q with entries := NoticeQueue.unsend false q.entries }
    obtain ⟨hmute', hrespQ', hcontents', hothers'⟩ :=
      ((s.afterDelivery l).modNotice l fun q => { q with entries := NoticeQueue.unsend false q.entries }).arbitrate_spec l
    have ho : ((s.afterDelivery l).replayed l).isOpen l = true :=
      (isOpen_of_mute hmute' l).trans (hvoice.isOpen.trans (isOpen_of_requestOpen s l tag h))
    set r : Response := { tag, status := .ok, kind := 0x41, payload := [byteOf (s.notice l).entries.length] }
    obtain ⟨hmute, hsilent, hrespQ, hcontents⟩ := respondNow_queues_from (s := s) r ho ((hrespQ' l).trans hvoice.respQ)
      fun n hn => ⟨(hothers' n hn).1.trans (hvoice.links n hn),
        (hothers' n hn).2.trans (modNotice_notice_of_ne (s.afterDelivery l) _ hn)⟩
    refine ⟨((s.afterDelivery l).replayed l).respondNow l r, replay_taken h, ?_⟩
    beta_reduce
    intro es older unsent placed
    have hunsent : NoticeQueue.unsend false (s.notice l).entries = unsent := NoticeQueue.unsend_eq_mapIdx false es
    have hlength : (((s.afterDelivery l).replayed l).link l).respQ = (s.link l).respQ := (hrespQ' l).trans hvoice.respQ
    have hroom (hplaced : placed) : (((s.afterDelivery l).replayed l).link l).respQ.length ≤ 3 := by
      rw [hlength]
      exact (placed_iff s l).1 hplaced
    have hwaits (h : ((s.afterDelivery l).link l).tx ≠ .free ∨ (s.link l).respQ ≠ []) :
        ((s.afterDelivery l).replayed l).notice l = { s.notice l with entries := unsent } := by
      rw [← hunsent]
      exact replayed_of_waiting _ (h.imp_right fun hq => by rwa [hvoice.respQ])
    have htx : ((s.afterDelivery l).link l).tx = (s.link l).tx := by
      show ((s.afterFrame l).link l).tx = _
      simp [afterFrame, restartLease]
    refine ⟨hmute.trans (hmute'.trans (mute_modNotice ..)), hsilent, hrespQ, hcontents.trans ?_, fun hplaced hwaiting => ?_,
      fun hplaced hfree hempty e he => ?_⟩
    · by_cases hplaced : placed
      · rw [if_pos hplaced]
        refine (hcontents' l).trans ?_
        rw [hbefore, ← hunsent]
        rfl
      · rw [hwaits (.inr fun hnil => hplaced ((placed_iff s l).2 (by simp [hnil])))]
    · rw [(respondNow_of_room _ l r (hroom hplaced)).1, hwaits (by rwa [htx])]
    · obtain ⟨hsent, hentries⟩ := replayed_of_idle (l := l) (s.afterDelivery l) (htx.trans hfree) (hvoice.respQ.trans hempty) e (by
        rw [show (s.afterDelivery l).notice l = s.notice l from rfl, hunsent]
        exact he)
      obtain ⟨hnotice, hkept⟩ := respondNow_of_room _ l r (hroom hplaced)
      refine ⟨(hkept (by rw [hsent]; simp)).trans hsent, ?_⟩
      rw [hnotice, hentries, show (s.afterDelivery l).notice l = s.notice l from rfl, hunsent]

end State

end Sys2Proof.Machine
end

section
/-! PROOF. OPEN: the checks of R114 in their order, and the record of a session newly opened (R115). -/

namespace Sys2Proof.Machine

/-! ### Roles (Table 6-1) -/

theorem Role.ofByte?_eq_none {b : Byte} : Role.ofByte? b = none ↔ 2 < b.toNat := by
  unfold Role.ofByte?
  split_ifs with h0 h1 h2
  · simp [h0]
  · simp [h1]
  · simp [h2]
  · simp only [true_iff]
    bv_omega

/-- The role of a byte up to 2. -/
def roleOf (role : Byte) : Role := if role = 0 then .observer else if role = 1 then .controller else .supervisor

theorem Role.ofByte?_eq_some {b : Byte} (h : b.toNat ≤ 2) : Role.ofByte? b = some (roleOf b) ∧ (roleOf b).code = b := by
  unfold Role.ofByte? roleOf
  split_ifs with h0 h1 h2
  · exact ⟨rfl, h0.symm⟩
  · exact ⟨rfl, h1.symm⟩
  · exact ⟨rfl, h2.symm⟩
  · exact absurd h (by bv_omega)

theorem roleOf_eq_supervisor {b : Byte} (h : b.toNat ≤ 2) : roleOf b = .supervisor ↔ b = 2 := by
  unfold roleOf
  split_ifs with h0 h1
  · simp [h0]
  · simp [h1]
  · simp only [true_iff]
    bv_omega

namespace State

/-! ### The supervisor (R113) -/

section

variable (s : State)

theorem isSupervisor_iff (n : Index) : s.isSupervisor n = true ↔ s.role? n = some .supervisor := by simp [isSupervisor]

theorem supervisor_eq_some (n : Index) : s.supervisor = some n ↔
    s.role? n = some .supervisor ∧ ∀ m, m < n → s.role? m ≠ some .supervisor := by
  unfold supervisor
  rw [find?_eq_some_iff_least indices_ascending]
  simp only [mem_indices, true_and, true_implies, ← Bool.not_eq_true, isSupervisor_iff, ne_eq]

theorem supervisor_eq_none : s.supervisor = none ↔ ∀ n, s.role? n ≠ some .supervisor := by
  unfold supervisor
  simp only [List.find?_eq_none, mem_indices, true_implies, isSupervisor_iff, ne_eq]

theorem supervisor_afterDelivery (l : Index) : (s.afterDelivery l).supervisor = s.supervisor := by
  unfold supervisor
  congr 1
  funext n
  exact s.isSupervisor_afterDelivery l n

end

/-! ### The way of the request -/

section

variable {s : State} {l : Index} {tag role lease : Byte}

/-- An OPEN whose tag is not outstanding is taken at once, whether or not a session is open. -/
theorem open_taken (hready : s.requestReady l = true) (htag : tag ∉ s.tags l) :
    exec (.openSession l tag role lease) s = .next ((s.afterDelivery l).takeOpen l tag role lease) := by
  obtain ⟨hrx, hrouted, -⟩ := (s.requestReady_iff l).1 hready
  refine congrArg Host.Outcome.next ?_
  show s.requestArrives l tag (.openSession role lease) = _
  rw [requestArrives_of_idle s l tag (.openSession role lease) hrx hrouted,
    checkRequest_of_passed (kind := (Request.openSession role lease).kind) (q := .openSession role lease) _ l (Request.kind_mem _) (.inr rfl)
      (by simpa using htag) (fun hk => absurd hk (show (0x01 : Byte) ∉ Request.deferredKinds by decide)) (Request.parse_fields _)]
  show (s.afterFrame l).handOver l tag (.openSession role lease) none = _
  rw [handOver_of_untargeted _ l tag rfl, deliver_afterFrame s l tag _ none hready]
  rfl

/-- An OPEN answered at once with no other change. -/
theorem open_unchanged {r : Response} (hready : s.requestReady l = true) (htag : tag ∉ s.tags l)
    (htake : (s.afterDelivery l).takeOpen l tag role lease = (s.afterDelivery l).respondNow l r) :
    completes (.openSession l tag role lease) s fun s' => s'.mute = (s.afterDelivery l).mute ∧ s.othersSilent s' l ∧
      s.repliedAfter s' l (if s.isOpen l then .session else .none) [] r [] :=
  ⟨_, (open_taken hready htag).trans (congrArg Host.Outcome.next htake), (s.afterDelivery_sameVoice l).respondNow r⟩

/-! ### The checks of R114 -/

variable {x : State}

theorem takeOpen_of_open {o : OpenSession} (hc : (x.session l).current = some o) : x.takeOpen l tag role lease =
    x.respondNow l { tag, status := .already, kind := 0x01, payload := [o.role.code, o.lease] } := by
  unfold takeOpen
  rw [hc]

variable (hc : (x.session l).current = none)

include hc

theorem takeOpen_of_bad (hbad : 2 < role.toNat ∨ lease = 0 ∨ 60 < lease.toNat) : x.takeOpen l tag role lease =
    x.respondNow l { tag, status := .badOperand, kind := 0x01, payload := [] } := by
  unfold takeOpen
  rw [hc]
  cases hr : Role.ofByte? role with
  | none => rfl
  | some r =>
    have hlease : lease.toNat = 0 ∨ Config.maxLease < lease.toNat := by
      have hknown : ¬ 2 < role.toNat := by rw [← Role.ofByte?_eq_none, hr]; simp
      exact (hbad.resolve_left hknown).imp (fun h0 => by rw [h0]; rfl) id
    exact if_pos hlease

variable (hgood : ¬ (2 < role.toNat ∨ lease = 0 ∨ 60 < lease.toNat))

include hgood

/-- The checks after the role and the lease period. -/
theorem takeOpen_of_good : x.takeOpen l tag role lease =
    if role = 2 ∧ (x.session l).capable = false then x.respondNow l { tag, status := .role, kind := 0x01, payload := [] }
    else
      match (if role = 2 then x.supervisor else none) with
      | some n => x.respondNow l { tag, status := .supervisorTaken, kind := 0x01, payload := [indexByte n] }
      | none =>
        ((x.modSession l fun y => { y with current := some (newSession (roleOf role) lease) }).modNotice l
          fun q => { q with nextSeq := 0 }).respondNow l
            { tag, status := .ok, kind := 0x01, payload := [role, lease, indexByte l, flagByte (x.session l).capable] } := by
  obtain ⟨hrole, hlease⟩ := not_or.1 hgood
  obtain ⟨hr, hcode⟩ := Role.ofByte?_eq_some (Nat.not_lt.1 hrole)
  have hlease' : ¬ (lease.toNat = 0 ∨ Config.maxLease < lease.toNat) := fun h =>
    hlease (h.imp (fun h0 => BitVec.eq_of_toNat_eq h0) id)
  unfold takeOpen
  rw [hc, hr]
  simp only [if_neg hlease', roleOf_eq_supervisor (Nat.not_lt.1 hrole), hcode]
  rfl

end

/-- Settles O34: the checks of `takeOpen`, which reads the session and the roles as the frame found them. -/
theorem openByFirstCheck : Obligations.OpenByFirstCheck := by
  unfold Obligations.OpenByFirstCheck
  intro s l tag role lease hready
  refine ⟨fun o ho htag => ?_, fun hnone => ?_⟩
  · have hc : (s.session l).current = some o := ho
    have htake := open_unchanged (role := role) (lease := lease) hready (by rwa [tags_of_current hc])
      (takeOpen_of_open (tag := tag) (afterDelivery_current hc))
    rwa [isOpen_of_current hc] at htake
  · have hc : ((s.afterDelivery l).session l).current = none := by
      show ((s.afterFrame l).session l).current = none
      simp [afterFrame, restartLease, modOpen, hnone]
    have hcapable : ((s.afterDelivery l).session l).capable = (s.session l).capable := by
      show ((s.afterFrame l).session l).capable = _
      simp [afterFrame, restartLease, modOpen]
    have htags : tag ∉ s.tags l := by simp [tags, hnone]
    have hunchanged {r : Response} (htake : (s.afterDelivery l).takeOpen l tag role lease = (s.afterDelivery l).respondNow l r) :=
      open_unchanged hready htags htake
    simp only [isOpen_of_closed hnone] at hunchanged
    refine ⟨fun hbad => hunchanged (takeOpen_of_bad hc hbad), fun hgood hrole hcap => hunchanged ?_,
      fun n hgood hrole hcap hn hleast => hunchanged ?_, fun hgood hfree => ?_⟩
    · rw [takeOpen_of_good hc hgood, hcapable, if_pos ⟨hrole, hcap⟩]
    · rw [takeOpen_of_good hc hgood, hcapable, if_neg fun h => by simp [hcap] at h, if_pos hrole, supervisor_afterDelivery,
        (supervisor_eq_some s n).2 ⟨hn, hleast⟩]
    · have hnone' : (if role = 2 then (s.afterDelivery l).supervisor else none) = none := by
        split
        · rename_i hrole
          rw [supervisor_afterDelivery, supervisor_eq_none]
          exact (hfree hrole).2
        · rfl
      have hcheck : ¬ (role = 2 ∧ ((s.afterDelivery l).session l).capable = false) := by
        rintro ⟨hrole, hcap⟩
        rw [hcapable, (hfree hrole).1] at hcap
        cases hcap
      have htake := takeOpen_of_good (tag := tag) hc hgood
      rw [if_neg hcheck, hnone', hcapable] at htake
      refine ⟨_, (open_taken hready htags).trans (congrArg Host.Outcome.next htake), ?_⟩
      have hvoice := s.afterDelivery_sameVoice l
      obtain ⟨hmute, hsilent, hrespQ, hcontents⟩ := respondNow_queues_from (s := s)
        (x := ((s.afterDelivery l).modSession l fun y => { y with current := some (newSession (roleOf role) lease) }).modNotice l
          fun q => { q with nextSeq := 0 })
        { tag, status := .ok, kind := 0x01, payload := [role, lease, indexByte l, flagByte (s.session l).capable] }
        (by simp [isOpen]) hvoice.respQ fun n hn => ⟨hvoice.links n hn, modNotice_notice_of_ne _ _ hn⟩
      rw [modNotice_notice_self] at hcontents
      exact ⟨hmute.trans (mute_modNotice ..), hsilent, hrespQ, hcontents⟩

end State

end Sys2Proof.Machine
end

section
/-! PROOF. What each block does with the end of a session, in closed form (R25, R34, R44, R66, R92, R110, R126, R144, R191). -/

namespace Sys2Proof.Machine.State

/-! ### A Run Control Unit -/

section

variable (n t : Index) (a : AccessEngine) (r : RunControl)

/-- The Run Control Unit once Sn has left its hold set, its waiters and its records. -/
def leftRc (n : Index) (r : RunControl) : RunControl :=
  { r with
    hold := r.hold.remove n
    waiters := r.waiters.filter fun w => w.session != n
    stepSeq := r.stepSeq.map fun q => if q.session = n then { q with aborted := true, discard := true } else q
    resetRec := r.resetRec.map fun q => if q.session = n then { q with discard := true } else q }

/-- The end of Sn changes the hold set of a HALTED target. -/
def endLets (n : Index) (r : RunControl) : Bool := r.run == .halted && r.hold.has n

/-- The end of Sn releases the target. -/
def endReleases (n : Index) (a : AccessEngine) (r : RunControl) : Bool := endLets n r && (r.hold.remove n).isEmpty && !a.inFlight

/-- The Run Control Unit after the action in HALTED. -/
def endActed (n : Index) (a : AccessEngine) (r : RunControl) : RunControl := if endLets n r then holdMovedRc a (leftRc n r) else leftRc n r

/-- The Run Control Unit after the end of Sn. -/
def endRc (n : Index) (a : AccessEngine) (r : RunControl) : RunControl :=
  { endActed n a r with lock := if r.lock = some n then none else r.lock }

/-- The STATE notices of the end of Sn. -/
def endStates (n t : Index) (a : AccessEngine) (r : RunControl) : List NoticeBody :=
  (if endLets n r then [stateOf t (endActed n a r)] else []) ++ if r.lock = some n then [stateOf t (endRc n a r)] else []

theorem endActed_eq : endActed n a r =
    { leftRc n r with
      run := if endReleases n a r then .releasing else r.run
      relDefer := if endLets n r && (r.hold.remove n).isEmpty then a.inFlight else r.relDefer } := by
  unfold endActed endReleases holdMovedRc
  cases endLets n r with
  | true =>
    simp only [if_true, Bool.true_and]
    rfl
  | false => simp [leftRc]

theorem endRc_eq : endRc n a r =
    { leftRc n r with
      run := if endReleases n a r then .releasing else r.run
      lock := if r.lock = some n then none else r.lock
      relDefer := if endLets n r && (r.hold.remove n).isEmpty then a.inFlight else r.relDefer } := by
  unfold endRc
  rw [endActed_eq]

theorem endStates_eq : endStates n t a r =
    let run : RunState := if endReleases n a r then .releasing else r.run
    let state (o : Option Index) : NoticeBody :=
      .state t run (r.hold.remove n) o (if run = .halted then some (r.haltCause, r.lastPc) else none)
    (if endLets n r then [state r.lock] else []) ++ if r.lock = some n then [state none] else [] := by
  unfold endStates stateOf
  rw [endRc_eq, endActed_eq]
  by_cases hlock : r.lock = some n
  · simp only [if_pos hlock]
    rfl
  · simp only [if_neg hlock]
    rfl

end

section

variable (s : State) (n t : Index)

/-- What a Run Control Unit does with the end of Sn. -/
theorem endInRunControl_ran : s.Ran (if endReleases n (s.acc t) (s.rc t) then s.handRc t .run else s) (s.endInRunControl n t) t []
    (endRc n (s.acc t) (s.rc t)) (endStates n t (s.acc t) (s.rc t)) := by
  have h0 := (Ran.refl s t).modRc (leftRc n)
  have hdone : s.Ran (if endReleases n (s.acc t) (s.rc t) then s.handRc t .run else s)
      (if endLets n (s.rc t) then (s.modRc t (leftRc n)).afterHoldChange t else s.modRc t (leftRc n)) t []
      (endActed n (s.acc t) (s.rc t)) (if endLets n (s.rc t) then [stateOf t (endActed n (s.acc t) (s.rc t))] else []) := by
    unfold endActed endReleases
    cases endLets n (s.rc t) with
    | true =>
      rw [if_pos rfl, if_pos rfl, afterHoldChange_eq, Bool.true_and]
      exact h0.holdMoved.notifyState
    | false => exact h0
  have hlock : (endActed n (s.acc t) (s.rc t)).lock = (s.rc t).lock := by
    rw [endActed_eq]
    rfl
  have hmodel : s.endInRunControl n t =
      (let s2 := if endLets n (s.rc t) then (s.modRc t (leftRc n)).afterHoldChange t else s.modRc t (leftRc n)
       if (s2.rc t).lock = some n then (s2.modRc t fun r => { r with lock := none }).notifyState t else s2) := by
    unfold endInRunControl endLets
    rw [Bool.and_comm]
    rfl
  rw [hmodel]
  simp only [hdone.rc, hlock]
  unfold endStates endRc
  by_cases hown : (s.rc t).lock = some n
  · rw [if_pos hown, if_pos hown, if_pos hown]
    exact (hdone.modRc fun r => { r with lock := none }).notifyState
  · rw [if_neg hown, if_neg hown, if_neg hown, List.append_nil, ← hlock]
    exact hdone

end

/-! ### The Breakpoint Table -/

/-- A change of each port of a list of targets, one after another. -/
theorem foldl_modPort (g : Index → Port → Port) (ts : List Index) (hnodup : ts.Nodup) : ∀ x : State,
    let y := ts.foldl (fun x t => x.modPort t (g t)) x
    y.links = x.links ∧ y.sessions = x.sessions ∧ y.notices = x.notices ∧ y.records = x.records ∧ y.sched = x.sched ∧
      y.pending = x.pending ∧ ∀ u, y.rc u = x.rc u ∧ y.bank u = x.bank u ∧ y.acc u = x.acc u ∧ y.cfg u = x.cfg u ∧
        y.port u = if u ∈ ts then g u (x.port u) else x.port u := by
  induction ts with
  | nil => exact fun x => ⟨rfl, rfl, rfl, rfl, rfl, rfl, fun u => ⟨rfl, rfl, rfl, rfl, rfl⟩⟩
  | cons t ts ih =>
    intro x
    obtain ⟨ht, hts⟩ := List.nodup_cons.1 hnodup
    obtain ⟨hl, hs, hn, hr, hsched, hp, htargets⟩ := ih hts (x.modPort t (g t))
    refine ⟨hl, hs, hn, hr, hsched, hp, fun u => ?_⟩
    obtain ⟨hrc, hbank, hacc, hcfg, hport⟩ := htargets u
    refine ⟨hrc.trans (by simp), hbank.trans (by simp), hacc.trans (by simp), hcfg.trans (by simp), hport.trans ?_⟩
    by_cases hu : u = t
    · subst hu
      simp [ht]
    · simp [hu, modPort_port_of_ne]

section

variable (s : State) (n : Index)

/-- The records of Sn are deleted. -/
def endDropped (n : Index) (s : State) : State := s.dropRecords fun r => r.owner == n

/-- The port of target `t` after the deletion, with WATCH(off) where its bank has emptied. -/
def endPort (s : State) (n t : Index) (p : Port) : Port :=
  if s.demand t = (s.endDropped n).demand t ∨ (s.rc t).run = .detached ∨ (s.rc t).run = .resetting then p
  else { p with sendList := p.sendList ++ [.watch ((s.endDropped n).demand t)], watchEnable := (s.endDropped n).demand t }

/-- The watch of every target is that of its own port. -/
theorem endInBreakTable_eq : s.endInBreakTable n = indices.foldl (fun x t => x.modPort t (s.endPort n t)) (s.endDropped n) := by
  have hstep (x : State) (t : Index) (hbank : x.bank t = (s.endDropped n).bank t) (hrc : x.rc t = s.rc t) :
      x.watchSince s t = x.modPort t (s.endPort n t) := by
    have hdemand : x.demand t = (s.endDropped n).demand t := by
      unfold demand boundCount
      rw [hbank]
    rw [watchSince_eq, hdemand]
    unfold watchSent endPort
    rw [hrc, hdemand]
    by_cases hsame : s.demand t = (s.endDropped n).demand t
    · rw [if_pos hsame]
      refine (modPort_fixed x t ?_).symm
      rw [if_pos (.inl hsame)]
    · rw [if_neg hsame]
      by_cases hrun : (s.rc t).run = .detached ∨ (s.rc t).run = .resetting
      · rw [if_pos hrun]
        refine (modPort_fixed x t ?_).symm
        rw [if_pos (.inr hrun)]
      · rw [if_neg hrun]
        refine modPort_congr x t ?_
        rw [if_neg (not_or.2 ⟨hsame, hrun⟩)]
  have hfold (ts : List Index) : ∀ x : State, (∀ t, x.bank t = (s.endDropped n).bank t ∧ x.rc t = s.rc t) →
      ts.foldl (fun s' t => s'.watchSince s t) x = ts.foldl (fun x t => x.modPort t (s.endPort n t)) x := by
    induction ts with
    | nil => exact fun x _ => rfl
    | cons t ts ih =>
      intro x hx
      rw [List.foldl_cons, List.foldl_cons, hstep x t (hx t).1 (hx t).2]
      exact ih _ fun u => by simpa using hx u
  exact hfold indices _ fun t => ⟨rfl, by simp⟩

theorem endDropped_bank (t d : Index) : ((s.endDropped n).bank t).get d =
    let subs := ((s.bank t).get d).subs.filter fun h => !(s.records.any fun x => x.handle == h && x.owner == n)
    if subs = [] then { spec := none, subs := [] } else { spec := ((s.bank t).get d).spec, subs } := by
  unfold endDropped
  rw [bank_dropRecords]
  unfold Comparator.drop
  simp only [List.isEmpty_iff]
  rfl

/-- A deletion turns no watch demand on. -/
theorem demand_of_endDropped (t : Index) (h : (s.endDropped n).demand t = true) : s.demand t = true := by
  obtain ⟨d, hd⟩ := ((s.endDropped n).demand_iff t).1 h
  refine (s.demand_iff t).2 ⟨d, fun hnil => hd ?_⟩
  rw [endDropped_bank, hnil]
  rfl

/-! ### An Access Engine -/

/-- The entries that stay in the access queue: those of others, and one of Sn in flight, marked for discard. -/
def endLeft (n : Index) (q : List AccEntry) : List AccEntry :=
  (q.filter fun e => !(e.session == n && !e.inFlight)).map fun e => if e.session = n then { e with discard := true } else e

theorem endInAccess_eq (t : Index) : s.endInAccess n t =
    let left := endLeft n (s.acc t).queue
    let s1 := s.modAcc t fun a => { a with queue := left }
    if ((s.acc t).queue.head?.any fun e => e.session == n && !e.inFlight) = true ∧ left ≠ [] then s1.examine t else s1 := by
  have hleft : (((s.acc t).queue.filter fun e => e.session != n || e.inFlight).map
      fun e => if e.session = n then { e with discard := true } else e) = endLeft n (s.acc t).queue := by
    unfold endLeft
    congr 2
    funext e
    simp [Bool.not_and, bne]
  unfold endInAccess
  simp only [hleft]
  cases hq : (s.acc t).queue with
  | nil => simp
  | cons e rest =>
    cases hl : endLeft n (e :: rest) with
    | nil => simp
    | cons y ys => simp [beq_iff_eq]

/-! ### The Link Unit -/

/-- The responses that the end of Sn leaves: at a lease expiry those of others, and the one in transmission. -/
def endRespQ (c : EndCause) (u : LinkUnit) : List RespEntry :=
  let sending := match u.tx with | .response _ => 1 | _ => 0
  relabelled (if c = .lease then u.respQ.take sending ++ (u.respQ.drop sending).filter fun e => e.owner != .session else u.respQ)

theorem endRespQ_eq (c : EndCause) (u : LinkUnit) : (u.keptAtEnd c).map RespEntry.endOwner = endRespQ c u := by
  have howner : RespEntry.endOwner = fun e : RespEntry => if e.owner = .session then { e with owner := .ended } else e := by
    funext e
    simp [RespEntry.endOwner, RespEntry.ofSession]
  have hkept : u.keptAtEnd c = if c = .lease then
      u.respQ.take (match u.tx with | .response _ => 1 | _ => 0) ++
        (u.respQ.drop (match u.tx with | .response _ => 1 | _ => 0)).filter fun e => e.owner != .session
      else u.respQ := by
    unfold LinkUnit.keptAtEnd
    cases c with
    | lease =>
      cases u.tx <;> cases u.respQ <;> rfl
    | close => rfl
    | linkBreak => rfl
  rw [howner, hkept]
  rfl

end

end Sys2Proof.Machine.State
end

section
/-! PROOF. What the blocks' work at the end of Sn spares: the ended session's own link, queue and record, the other sessions, and what
stays on each target (R123). -/

namespace Sys2Proof.Machine

/-! ### One target -/

/-- No claim of Sn is left in a Run Control Unit. -/
def rcFree (n : Index) (r : RunControl) : Prop :=
  r.hold.members.get n = false ∧ r.lock ≠ some n ∧ (∀ w ∈ r.waiters, w.session ≠ n) ∧
    (∀ q ∈ r.stepSeq, q.session = n → q.aborted = true ∧ q.discard = true) ∧ (∀ q ∈ r.resetRec, q.session = n → q.discard = true)

/-- Of the access entries of Sn only one in flight is left, marked for discard. -/
def accFree (n : Index) (a : AccessEngine) : Prop := ∀ e ∈ a.queue, e.session = n → e.inFlight = true ∧ e.discard = true

/-- What work at the end of Sn keeps of a target, and the claims it does not bring back. -/
structure Yields (n : Index) (x y : Target) : Prop where
  cfg : y.cfg = x.cfg
  lastPc : y.rc.lastPc = x.rc.lastPc
  haltCause : y.rc.haltCause = x.rc.haltCause
  members : ∀ m, m ≠ n → y.rc.hold.members.get m = x.rc.hold.members.get m
  self : y.rc.hold.self = x.rc.hold.self
  lock : x.rc.lock ≠ some n → y.rc.lock = x.rc.lock
  rcFree : rcFree n x.rc → rcFree n y.rc
  accFree : accFree n x.acc → accFree n y.acc

namespace Yields

variable {n : Index} {x y z : Target}

theorem refl (n : Index) (x : Target) : Yields n x x := ⟨rfl, rfl, rfl, fun _ _ => rfl, rfl, fun _ => rfl, id, id⟩

theorem trans (h : Yields n x y) (h' : Yields n y z) : Yields n x z where
  cfg := h'.cfg.trans h.cfg
  lastPc := h'.lastPc.trans h.lastPc
  haltCause := h'.haltCause.trans h.haltCause
  members m hm := (h'.members m hm).trans (h.members m hm)
  self := h'.self.trans h.self
  lock hl := (h'.lock (by rw [h.lock hl]; exact hl)).trans (h.lock hl)
  rcFree hx := h'.rcFree (h.rcFree hx)
  accFree hx := h'.accFree (h.accFree hx)

/-- The same Run Control Unit, Access Engine and configuration. -/
theorem of_same (hrc : y.rc = x.rc) (hacc : y.acc = x.acc) (hcfg : y.cfg = x.cfg) : Yields n x y where
  cfg := hcfg
  lastPc := by rw [hrc]
  haltCause := by rw [hrc]
  members m _ := by rw [hrc]
  self := by rw [hrc]
  lock _ := by rw [hrc]
  rcFree h := by rwa [hrc]
  accFree h := by rwa [hacc]

/-- A change of the Run Control Unit that keeps claims and records, and takes waiters away at most. -/
theorem of_rc (n : Index) (x : Target) {r : RunControl} (hhold : r.hold = x.rc.hold) (hlock : r.lock = x.rc.lock) (hpc : r.lastPc = x.rc.lastPc)
    (hcause : r.haltCause = x.rc.haltCause) (hw : r.waiters ⊆ x.rc.waiters) (hseq : r.stepSeq = x.rc.stepSeq)
    (hreset : r.resetRec = x.rc.resetRec) : Yields n x { x with rc := r } where
  cfg := rfl
  lastPc := hpc
  haltCause := hcause
  members m _ := by rw [hhold]
  self := by rw [hhold]
  lock _ := hlock
  rcFree h := by
    obtain ⟨h1, h2, h3, h4, h5⟩ := h
    refine ⟨?_, ?_, fun w hmem => h3 w (hw hmem), ?_, ?_⟩
    · rwa [hhold]
    · rwa [hlock]
    · rwa [hseq]
    · rwa [hreset]
  accFree := id

/-- A change of the access queue that brings no entry of Sn back. -/
theorem of_acc (n : Index) (x : Target) {a : AccessEngine} (h : Machine.accFree n x.acc → Machine.accFree n a) :
    Yields n x { x with acc := a } where
  cfg := rfl
  lastPc := rfl
  haltCause := rfl
  members _ _ := rfl
  self := rfl
  lock _ := rfl
  rcFree := id
  accFree := h

theorem of_port (n : Index) (x : Target) (p : Port) : Yields n x { x with port := p } :=
  ⟨rfl, rfl, rfl, fun _ _ => rfl, rfl, fun _ => rfl, id, id⟩

end Yields

namespace State

/-! ### The state -/

/-- An operation that reaches neither the link, the queue nor the record of Sn, keeps the roles and watch sets of all, and yields on every
target. -/
structure Spares (n : Index) (s s' : State) : Prop where
  session : s'.session n = s.session n
  roles : ∀ m, s'.role? m = s.role? m
  watches : ∀ m t, s'.watches m t = s.watches m t
  capable : ∀ m, (s'.session m).capable = (s.session m).capable
  link : s'.link n = s.link n
  notice : s'.notice n = s.notice n
  records : s'.records = s.records
  yields : ∀ t, Yields n (s.target t) (s'.target t)

namespace Spares

variable {n : Index} {s x y : State}

theorem refl (n : Index) (s : State) : s.Spares n s :=
  ⟨rfl, fun _ => rfl, fun _ _ => rfl, fun _ => rfl, rfl, rfl, rfl, fun _ => .refl n _⟩

theorem trans (h : s.Spares n x) (h' : x.Spares n y) : s.Spares n y where
  session := h'.session.trans h.session
  roles m := (h'.roles m).trans (h.roles m)
  watches m t := (h'.watches m t).trans (h.watches m t)
  capable m := (h'.capable m).trans (h.capable m)
  link := h'.link.trans h.link
  notice := h'.notice.trans h.notice
  records := h'.records.trans h.records
  yields t := (h.yields t).trans (h'.yields t)

/-- A change of one target. -/
theorem modTarget (h : s.Spares n x) (t : Index) (f : Target → Target) (hf : Yields n (x.target t) (f (x.target t))) :
    s.Spares n (x.modTarget t f) :=
  h.trans
    { session := rfl, roles := fun _ => rfl, watches := fun _ _ => rfl, capable := fun _ => rfl, link := rfl, notice := rfl, records := rfl
      yields := fun u => by
        have htarget : (x.modTarget t f).target u = if u = t then f (x.target t) else x.target u := Quad.get_modify ..
        rw [htarget]
        split
        · rename_i hu
          rw [hu]
          exact hf
        · exact .refl n _ }

/-- A change of one Run Control Unit that keeps claims and records, and takes waiters away at most. -/
theorem modRc (h : s.Spares n x) (t : Index) (f : RunControl → RunControl) (hhold : (f (x.rc t)).hold = (x.rc t).hold)
    (hlock : (f (x.rc t)).lock = (x.rc t).lock) (hpc : (f (x.rc t)).lastPc = (x.rc t).lastPc)
    (hcause : (f (x.rc t)).haltCause = (x.rc t).haltCause) (hw : ∀ w ∈ (f (x.rc t)).waiters, w ∈ (x.rc t).waiters)
    (hseq : (f (x.rc t)).stepSeq = (x.rc t).stepSeq) (hreset : (f (x.rc t)).resetRec = (x.rc t).resetRec) : s.Spares n (x.modRc t f) :=
  h.modTarget t _ (.of_rc n _ hhold hlock hpc hcause (fun w hmem => hw w hmem) hseq hreset)

theorem modPort (h : s.Spares n x) (t : Index) (f : Port → Port) : s.Spares n (x.modPort t f) := h.modTarget t _ (.of_port n _ _)

theorem modAcc (h : s.Spares n x) (t : Index) (f : AccessEngine → AccessEngine) (hf : accFree n (x.acc t) → accFree n (f (x.acc t))) :
    s.Spares n (x.modAcc t f) := h.modTarget t _ (.of_acc n _ hf)

theorem hand (h : s.Spares n x) (t : Index) {m : PortMsg} (hm : ∀ g, m ≠ .attn g) : s.Spares n (x.hand t m) := by
  rw [hand_eq x t hm]
  exact h.modPort t _

theorem handRc (h : s.Spares n x) (t : Index) (c : RcMsg) : s.Spares n (x.handRc t c) := by
  rw [handRc_eq]
  exact h.modPort t _

/-- A change in what is sent to a session that is open. -/
theorem outgoing (h : s.Spares n x) (hs : y.session n = x.session n) (hr : ∀ m, y.role? m = x.role? m)
    (hw : ∀ m t, y.watches m t = x.watches m t) (hc : ∀ m, (y.session m).capable = (x.session m).capable) (hl : y.link n = x.link n)
    (hn : y.notice n = x.notice n) (hrec : y.records = x.records) (ht : y.targets = x.targets) : s.Spares n y :=
  h.trans ⟨hs, hr, hw, hc, hl, hn, hrec, fun t => by
    rw [show y.target t = x.target t from congrArg (fun ts : Quad Target => ts.get t) ht]
    exact .refl n _⟩

theorem queueNotice (h : s.Spares n x) (hclosed : s.isOpen n = false) (m : Index) (b : NoticeBody) : s.Spares n (x.queueNotice m b) := by
  have hx : x.isOpen n = false := by rwa [isOpen, h.session]
  by_cases hm : n = m
  · subst hm
    rw [show x.queueNotice n b = x from if_neg (by simp [hx])]
    exact h
  · obtain ⟨hmute, -, -, hothers⟩ := x.queueNotice_spec m b
    obtain ⟨hsessions, hrecords, htargets, -⟩ := parts_of_mute hmute
    exact h.outgoing (session_of_mute hmute n) (fun k => by rw [role?, role?, session_of_mute hmute]) (fun k t => watches_of_mute hmute k t)
      (fun k => by rw [session_of_mute hmute]) (hothers n hm).1 (hothers n hm).2 hrecords htargets

theorem notifyState (h : s.Spares n x) (hclosed : s.isOpen n = false) (t : Index) : s.Spares n (x.notifyState t) := by
  have hfold (ms : List Index) : ∀ y : State, s.Spares n y →
      s.Spares n (ms.foldl (fun s' m => if s'.watches m t then s'.queueNotice m (s'.stateBody t) else s') y) := by
    induction ms with
    | nil => exact fun y hy => hy
    | cons m ms ih =>
      intro y hy
      refine ih _ ?_
      beta_reduce
      split
      · exact hy.queueNotice hclosed m _
      · exact hy
  exact hfold indices x h

theorem respondDeferred (h : s.Spares n x) (hclosed : s.isOpen n = false) (m : Index) (r : Response) : s.Spares n (x.respondDeferred m r) := by
  have hx : x.isOpen n = false := by rwa [isOpen, h.session]
  by_cases hm : n = m
  · subst hm
    rw [show x.respondDeferred n r = x from if_neg (by simp [hx])]
    exact h
  · unfold State.respondDeferred
    split
    · obtain ⟨hmute, -, -, hothers⟩ := (x.leaveWindow m r.tag).place_spec m .session r
      obtain ⟨-, hrecords, htargets, -⟩ := parts_of_mute hmute
      have hleft : (x.leaveWindow m r.tag).session n = x.session n := modSession_session_of_ne x _ hm
      refine h.outgoing ((session_of_mute hmute n).trans hleft) (fun k => ?_) (fun k t => ?_) (fun k => ?_) (hothers n hm).1 (hothers n hm).2
        hrecords htargets
      · rw [role?, session_of_mute hmute]
        exact role?_modOpen x m k fun _ => rfl
      · rw [watches_of_mute hmute]
        exact watches_modOpen x k m t fun _ => rfl
      · rw [session_of_mute hmute]
        by_cases hk : k = m
        · subst hk
          simp [leaveWindow, modOpen]
        · rw [show (x.leaveWindow m r.tag).session k = x.session k from modSession_session_of_ne x _ hk]
    · exact h

end Spares

end State

end Sys2Proof.Machine
end

section
/-! PROOF. An examination after the end of Sn, and each block's work, as far as they spare others (R92, R123). -/

namespace Sys2Proof.Machine.State.Spares

variable {n : Index} {s x : State}

/-- A change of the run state and the release deferral. -/
theorem setRun (h : s.Spares n x) (hclosed : s.isOpen n = false) (t : Index) (r : RunState) : s.Spares n (x.setRun t r) :=
  (h.modRc t (fun y => { y with run := r }) rfl rfl rfl rfl (fun _ => id) rfl rfl).notifyState hclosed t

theorem answerWaiters (h : s.Spares n x) (hclosed : s.isOpen n = false) (t : Index) (p : Waiter → Bool) (st : Status) :
    s.Spares n (x.answerWaiters t p st) := by
  have hfold (ws : List Waiter) : ∀ y : State, s.Spares n y → s.Spares n (ws.foldl (State.answerWaiter t st) y) := by
    induction ws with
    | nil => exact fun y hy => hy
    | cons w ws ih => exact fun y hy => ih _ (hy.respondDeferred hclosed _ _)
  exact hfold _ _ (h.modRc t _ rfl rfl rfl rfl (fun _ => List.mem_of_mem_filter) rfl rfl)

theorem respondAccess (h : s.Spares n x) (hclosed : s.isOpen n = false) (e : AccEntry) (st : Status) (payload : List Byte) :
    s.Spares n (x.respondAccess e st payload) := by
  unfold State.respondAccess
  split
  · exact h
  · exact h.respondDeferred hclosed _ _

theorem failHead (h : s.Spares n x) (hclosed : s.isOpen n = false) (t : Index) (st : Status) : s.Spares n (x.failHead t st) := by
  unfold State.failHead
  split
  · exact h
  · rename_i e rest hq
    refine (h.modAcc t _ fun hfree e' he' => ?_).respondAccess hclosed e st []
    exact hfree e' (by rw [hq]; exact List.mem_cons_of_mem _ he')

/-- The head of the queue becomes IN_FLIGHT. -/
theorem startHead (h : s.Spares n x) (t : Index) : s.Spares n (x.startHead t) := by
  unfold State.startHead
  split
  · exact h
  · rename_i e rest hq
    unfold handAcc setHead
    refine State.Spares.hand (State.Spares.modAcc (State.Spares.modPort (h.modAcc t _ fun hfree e' he' hown => ?_) t _) t _ id) t (by simp)
    rcases List.mem_cons.1 he' with rfl | he'
    · exact ⟨rfl, (hfree e (by rw [hq]; exact List.mem_cons_self) hown).2⟩
    · exact hfree e' (List.mem_of_mem_tail he') hown

theorem enterRunning (h : s.Spares n x) (hclosed : s.isOpen n = false) (t : Index) : s.Spares n (x.enterRunning t) :=
  State.Spares.notifyState (State.Spares.answerWaiters (h.modRc t _ rfl rfl rfl rfl (fun _ => id) rfl rfl) hclosed t _ _) hclosed t

theorem examineFor (hclosed : s.isOpen n = false) (t : Index) (k : Nat) : ∀ {x : State}, s.Spares n x → s.Spares n (x.examineFor k t) := by
  induction k with
  | zero => exact fun h => h
  | succ k ih =>
    intro x h
    unfold State.examineFor
    split
    · exact h
    · exact ih (h.failHead hclosed t _)
    · exact h.startHead t
    · exact (h.handRc t _).setRun hclosed t _
    · exact (h.handRc t _).setRun hclosed t _
    · exact ih ((h.hand t (by simp)).enterRunning hclosed t)

theorem examine (h : s.Spares n x) (hclosed : s.isOpen n = false) (t : Index) : s.Spares n (x.examine t) := h.examineFor hclosed t _

/-- A change of the hold set in HALTED. -/
theorem afterHoldChange (h : s.Spares n x) (hclosed : s.isOpen n = false) (t : Index) : s.Spares n (x.afterHoldChange t) := by
  rw [afterHoldChange_eq]
  refine State.Spares.notifyState ?_ hclosed t
  unfold holdMoved
  split
  · split
    · exact h.modRc t _ rfl rfl rfl rfl (fun _ => id) rfl rfl
    · exact (h.handRc t _).modRc t _ rfl rfl rfl rfl (fun _ => id) rfl rfl
  · exact h

end Sys2Proof.Machine.State.Spares

namespace Sys2Proof.Machine.State

/-! ### A Run Control Unit -/

/-- Sn has left but for its lock. -/
theorem rcFree_leftRc {n : Index} {r : RunControl} (hlock : r.lock ≠ some n) : rcFree n (leftRc n r) := by
  refine ⟨Quad.get_set_self .., hlock, fun w hw => ?_, fun q hq hown => ?_, fun q hq hown => ?_⟩
  · simpa using List.of_mem_filter hw
  · obtain ⟨q', -, rfl⟩ := Option.mem_map.1 hq
    by_cases h : q'.session = n
    · simp [h]
    · simp [h] at hown
  · obtain ⟨q', -, rfl⟩ := Option.mem_map.1 hq
    by_cases h : q'.session = n
    · simp [h]
    · simp [h] at hown

theorem yields_leftRc (n : Index) (x : Target) : Yields n x { x with rc := leftRc n x.rc } where
  cfg := rfl
  lastPc := rfl
  haltCause := rfl
  members _ hm := Quad.get_set_of_ne _ hm _
  self := rfl
  lock _ := rfl
  rcFree h := rcFree_leftRc h.2.1
  accFree := id

/-- The lock of Sn is freed. -/
theorem yields_unlock {n : Index} {x : Target} (h : x.rc.lock = some n) : Yields n x { x with rc := { x.rc with lock := none } } where
  cfg := rfl
  lastPc := rfl
  haltCause := rfl
  members _ _ := rfl
  self := rfl
  lock hne := absurd h hne
  rcFree hfree := absurd h hfree.2.1
  accFree := id

theorem rcFree_endRc (n : Index) (a : AccessEngine) (r : RunControl) : rcFree n (endRc n a r) := by
  rw [endRc_eq]
  by_cases hlock : r.lock = some n
  · have h := rcFree_leftRc (n := n) (r := { r with lock := none }) (by simp)
    rw [if_pos hlock]
    exact h
  · rw [if_neg hlock]
    exact rcFree_leftRc hlock

/-! ### An Access Engine -/

theorem accFree_endLeft (n : Index) (a : AccessEngine) : accFree n { a with queue := endLeft n a.queue } := by
  intro e he hown
  obtain ⟨e', hmem, rfl⟩ := List.mem_map.1 he
  have hkept := List.of_mem_filter hmem
  by_cases h : e'.session = n
  · simp only [h, beq_self_eq_true, Bool.true_and, Bool.not_not, if_true] at hkept ⊢
    exact ⟨hkept, trivial⟩
  · simp [h] at hown

/-! ### The announcement, block by block -/

/-- What the announcement of the end of Sn does to its own link. -/
def endLink (c : EndCause) (u : LinkUnit) : LinkUnit := { u with pendingData := none, respQ := endRespQ c u }

/-- One block has taken the announcement of the end of Sn. -/
structure EndStep (n : Index) (c : EndCause) (b : EndBlock) (s s' : State) : Prop where
  session : s'.session n = s.session n
  roles : ∀ m, s'.role? m = s.role? m
  watches : ∀ m t, s'.watches m t = s.watches m t
  capable : ∀ m, (s'.session m).capable = (s.session m).capable
  link : s'.link n = if b = .linkUnit then endLink c (s.link n) else s.link n
  notice : b ≠ .notices → s'.notice n = s.notice n
  emptied : b = .notices → (s'.notice n).entries = []
  records : s'.records = if b = .breakTable then s.records.filter fun x => x.owner != n else s.records
  yields : ∀ t, Yields n (s.target t) (s'.target t)
  rcFree : ∀ t, b = .runControl t → rcFree n (s'.rc t)
  accFree : ∀ t, b = .access t → accFree n (s'.acc t)

section

variable {s : State} {n : Index} (c : EndCause)

theorem Spares.endStep {s' : State} {b : EndBlock} (h : s.Spares n s') (h1 : b ≠ .linkUnit) (h2 : b ≠ .notices) (h3 : b ≠ .breakTable)
    (hrc : ∀ t, b = .runControl t → Machine.rcFree n (s'.rc t)) (hacc : ∀ t, b = .access t → Machine.accFree n (s'.acc t)) :
    EndStep n c b s s' where
  session := h.session
  roles := h.roles
  watches := h.watches
  capable := h.capable
  link := h.link.trans (if_neg h1).symm
  notice _ := h.notice
  emptied hb := absurd hb h2
  records := h.records.trans (if_neg h3).symm
  yields := h.yields
  rcFree := hrc
  accFree := hacc

theorem endInRunControl_spares (hclosed : s.isOpen n = false) (t : Index) : s.Spares n (s.endInRunControl n t) := by
  have h0 : s.Spares n (s.modRc t (leftRc n)) := (Spares.refl n s).modTarget t _ (yields_leftRc n _)
  have h1 : s.Spares n (if (s.rc t).hold.has n && (s.rc t).run == .halted then (s.modRc t (leftRc n)).afterHoldChange t
      else s.modRc t (leftRc n)) := by
    split
    · exact h0.afterHoldChange hclosed t
    · exact h0
  have hlock {x : State} (h : s.Spares n x) : s.Spares n (if (x.rc t).lock = some n then
      (x.modRc t fun r => { r with lock := none }).notifyState t else x) := by
    split
    · rename_i hown
      exact Spares.notifyState (h.modTarget t _ (yields_unlock hown)) hclosed t
    · exact h
  exact hlock h1

theorem endInAccess_spares (hclosed : s.isOpen n = false) (t : Index) : s.Spares n (s.endInAccess n t) ∧ accFree n ((s.endInAccess n t).acc t) := by
  have h0 : s.Spares n (s.modAcc t fun a => { a with queue := endLeft n a.queue }) :=
    (Spares.refl n s).modAcc t _ fun _ => accFree_endLeft n (s.acc t)
  have hfree : accFree n ((s.modAcc t fun a => { a with queue := endLeft n a.queue }).acc t) := by
    rw [modAcc_acc_self]
    exact accFree_endLeft n (s.acc t)
  have hqueue : (s.modAcc t fun a => { a with queue := endLeft n (s.acc t).queue }) =
      s.modAcc t fun a => { a with queue := endLeft n a.queue } := modAcc_congr s t rfl
  rw [endInAccess_eq]
  simp only [hqueue]
  split
  · have h1 := (Spares.refl n (s.modAcc t fun a => { a with queue := endLeft n a.queue })).examine
      (by rw [isOpen, h0.session]; exact hclosed) t
    exact ⟨h0.trans h1, (h1.yields t).accFree hfree⟩
  · exact ⟨h0, hfree⟩

theorem takeEnd_step (hclosed : s.isOpen n = false) (b : EndBlock) : EndStep n c b s (s.takeEnd n c b) := by
  cases b with
  | runControl t =>
    refine (endInRunControl_spares hclosed t).endStep c (by simp) (by simp) (by simp) (fun u hu => ?_) fun u hu => absurd hu (by simp)
    obtain rfl : t = u := by simpa using hu
    show Machine.rcFree n ((s.endInRunControl n t).rc t)
    rw [(s.endInRunControl_ran n t).rc]
    exact rcFree_endRc n _ _
  | access t =>
    obtain ⟨h, hfree⟩ := endInAccess_spares hclosed t
    refine h.endStep c (by simp) (by simp) (by simp) (fun u hu => absurd hu (by simp)) fun u hu => ?_
    obtain rfl : t = u := by simpa using hu
    exact hfree
  | breakTable =>
    have hports := foldl_modPort (s.endPort n) indices (by decide) (s.endDropped n)
    rw [← endInBreakTable_eq] at hports
    obtain ⟨hlinks, hsessions, hnotices, hrecords, -, -, htargets⟩ := hports
    have hsame (m : Index) : (s.endInBreakTable n).session m = s.session m := congrArg (fun ss : Quad Session => ss.get m) hsessions
    exact
      { session := hsame n
        roles := fun m => by rw [role?, role?, show (s.takeEnd n c .breakTable).session m = s.session m from hsame m]
        watches := fun m t => watches_congr (s := s) hsessions m t
        capable := fun m => congrArg Session.capable (hsame m)
        link := congrArg (fun us : Quad LinkUnit => us.get n) hlinks
        notice := fun _ => congrArg (fun ns : Quad NoticeQueue => ns.get n) hnotices
        emptied := fun h => absurd h (by simp)
        records := hrecords
        yields := fun t => by
          obtain ⟨hrc, -, hacc, hcfg, -⟩ := htargets t
          have hrc' : (s.endInBreakTable n).rc t = s.rc t := hrc.trans (rc_dropRecords s t _)
          have hacc' : (s.endInBreakTable n).acc t = s.acc t := hacc.trans (acc_dropRecords s t _)
          have hcfg' : (s.endInBreakTable n).cfg t = s.cfg t := hcfg.trans (cfg_dropRecords s t _)
          exact .of_same hrc' hacc' hcfg'
        rcFree := fun _ h => absurd h (by simp)
        accFree := fun _ h => absurd h (by simp) }
  | notices =>
    exact
      { session := rfl, roles := fun _ => rfl, watches := fun _ _ => rfl, capable := fun _ => rfl, link := rfl
        notice := fun h => absurd rfl h
        emptied := fun _ => congrArg NoticeQueue.entries (modNotice_notice_self ..)
        records := rfl, yields := fun t => .refl n _, rcFree := fun _ h => absurd h (by simp), accFree := fun _ h => absurd h (by simp) }
  | linkUnit =>
    exact
      { session := rfl, roles := fun _ => rfl, watches := fun _ _ => rfl, capable := fun _ => rfl
        link := by
          show (s.endInLinkUnit n c).link n = endLink c (s.link n)
          unfold endInLinkUnit endLink
          rw [modLink_link_self, endRespQ_eq]
        notice := fun _ => rfl, emptied := fun h => absurd h (by simp), records := rfl, yields := fun t => .refl n _
        rcFree := fun _ h => absurd h (by simp), accFree := fun _ h => absurd h (by simp) }

end

end Sys2Proof.Machine.State
end

section
/-! PROOF. The end of a session by CLOSE, by its lease, and by a link break (R119, R123, R125, R126). -/

namespace Sys2Proof.Machine.State

/-! ### Every block in turn -/

/-- The blocks of a list have taken the announcement of the end of Sn. -/
structure EndSteps (n : Index) (c : EndCause) (bs : List EndBlock) (s s' : State) : Prop where
  session : s'.session n = s.session n
  roles : ∀ m, s'.role? m = s.role? m
  watches : ∀ m t, s'.watches m t = s.watches m t
  capable : ∀ m, (s'.session m).capable = (s.session m).capable
  link : s'.link n = if .linkUnit ∈ bs then endLink c (s.link n) else s.link n
  emptied : .notices ∈ bs ∨ (s.notice n).entries = [] → (s'.notice n).entries = []
  records : s'.records = if .breakTable ∈ bs then s.records.filter fun x => x.owner != n else s.records
  yields : ∀ t, Yields n (s.target t) (s'.target t)
  rcFree : ∀ t, .runControl t ∈ bs ∨ Machine.rcFree n (s.rc t) → Machine.rcFree n (s'.rc t)
  accFree : ∀ t, .access t ∈ bs ∨ Machine.accFree n (s.acc t) → Machine.accFree n (s'.acc t)

section

variable {n : Index} (c : EndCause)

theorem takeEnd_steps (bs : List EndBlock) (hnodup : bs.Nodup) : ∀ {s : State}, s.isOpen n = false →
    EndSteps n c bs s (bs.foldl (takeEnd n c) s) := by
  induction bs with
  | nil =>
    intro s _
    exact
      { session := rfl, roles := fun _ => rfl, watches := fun _ _ => rfl, capable := fun _ => rfl, link := rfl
        emptied := fun h => h.resolve_left (by simp), records := rfl, yields := fun _ => .refl n _
        rcFree := fun _ h => h.resolve_left (by simp), accFree := fun _ h => h.resolve_left (by simp) }
  | cons b bs ih =>
    intro s hclosed
    obtain ⟨hb, hbs⟩ := List.nodup_cons.1 hnodup
    have h1 := takeEnd_step c hclosed b
    have h2 := ih hbs (s := s.takeEnd n c b) (by rw [isOpen, h1.session]; exact hclosed)
    refine
      { session := h2.session.trans h1.session, roles := fun m => (h2.roles m).trans (h1.roles m)
        watches := fun m t => (h2.watches m t).trans (h1.watches m t), capable := fun m => (h2.capable m).trans (h1.capable m)
        link := ?_, emptied := fun h => h2.emptied ?_, records := ?_, yields := fun t => (h1.yields t).trans (h2.yields t)
        rcFree := fun t h => h2.rcFree t ?_, accFree := fun t h => h2.accFree t ?_ }
    · rw [List.foldl_cons, h2.link, h1.link]
      by_cases hlink : b = .linkUnit
      · subst hlink
        simp [hb]
      · simp [hlink, Ne.symm hlink]
    · by_cases hnotices : b = .notices
      · exact .inr (h1.emptied hnotices)
      · rw [h1.notice hnotices]
        exact h.imp_left fun hmem => (List.mem_cons.1 hmem).resolve_left (Ne.symm hnotices)
    · rw [List.foldl_cons, h2.records, h1.records]
      by_cases htable : b = .breakTable
      · subst htable
        simp [hb]
      · simp [htable, Ne.symm htable]
    · rcases h with hmem | hfree
      · rcases List.mem_cons.1 hmem with heq | hmem
        · exact .inr (h1.rcFree t heq.symm)
        · exact .inl hmem
      · exact .inr ((h1.yields t).rcFree hfree)
    · rcases h with hmem | hfree
      · rcases List.mem_cons.1 hmem with heq | hmem
        · exact .inr (h1.accFree t heq.symm)
        · exact .inl hmem
      · exact .inr ((h1.yields t).accFree hfree)

/-- What the end of Sn needs of the state before it. -/
structure SameRecords (n : Index) (s x : State) : Prop where
  roles : ∀ m, m ≠ n → x.role? m = s.role? m
  watches : ∀ m, m ≠ n → ∀ t, x.watches m t = s.watches m t
  capable : ∀ m, (x.session m).capable = (s.session m).capable
  records : x.records = s.records
  targets : x.targets = s.targets

/-- Once every block has taken the announcement, Sn has ended and the rest is kept. -/
theorem ended_of_everyBlock {s x : State} {order : List EndBlock} (horder : everyBlockOnce order) (hx : SameRecords n s x)
    (hclosed : (x.session n).current = none) :
    let s' := order.foldl (takeEnd n c) x
    ended n s' ∧ keptByEnd n s s' ∧ s'.link n = endLink c (x.link n) := by
  obtain ⟨hnodup, hall⟩ := horder
  have h := takeEnd_steps c order hnodup (s := x) (isOpen_of_closed hclosed)
  intro s'
  have hrecords : s'.records = s.records.filter fun r => r.owner != n := by
    rw [← hx.records]
    exact h.records.trans (if_pos (hall _))
  have hlink : s'.link n = endLink c (x.link n) := h.link.trans (if_pos (hall _))
  refine ⟨⟨by rw [h.session]; exact hclosed, fun t => ?_, fun r hr => ?_, h.emptied (.inl (hall _)), by rw [hlink]; rfl⟩,
    ⟨fun m hm => ⟨(h.capable m).trans (hx.capable m), (h.roles m).trans (hx.roles m hm), fun t => (h.watches m t).trans (hx.watches m hm t)⟩,
      (h.capable n).trans (hx.capable n), hrecords, fun t => ?_⟩, hlink⟩
  · obtain ⟨h1, h2, h3, h4, h5⟩ := h.rcFree t (.inl (hall _))
    exact ⟨h1, h2, h3, h4, h5, h.accFree t (.inl (hall _))⟩
  · rw [hrecords] at hr
    simpa using List.of_mem_filter hr
  · have hy := h.yields t
    rw [show x.target t = s.target t from congrArg (fun ts : Quad Target => ts.get t) hx.targets] at hy
    exact ⟨hy.cfg, hy.lastPc, hy.haltCause, hy.members, hy.self, hy.lock⟩

end

end Sys2Proof.Machine.State
end

section
/-! PROOF. CLOSE, the lease expiry and the link break as a whole (R119, R125, R126). -/

namespace Sys2Proof.Machine.State

section

variable {s z : State} {n : Index}

theorem SameRecords.refl (n : Index) (s : State) : SameRecords n s s := ⟨fun _ _ => rfl, fun _ _ _ => rfl, fun _ => rfl, rfl, rfl⟩

/-- The record closes. -/
theorem SameRecords.closedFor (h : SameRecords n s z) : SameRecords n s (z.closedFor n) where
  roles m hm := by
    rw [← h.roles m hm, role?, role?, show (z.closedFor n).session m = z.session m from modSession_session_of_ne z _ hm]
  watches m hm t := by
    rw [← h.watches m hm t, State.watches, State.watches, show (z.closedFor n).session m = z.session m from modSession_session_of_ne z _ hm]
  capable m := by
    rw [← h.capable m]
    show ((z.modSession n fun x => { x with current := none }).session m).capable = _
    rw [modSession_session]
    split
    · rename_i hm
      rw [hm]
    · rfl
  records := h.records
  targets := h.targets

theorem closedFor_current (z : State) (n : Index) : ((z.closedFor n).session n).current = none := by
  show ((z.modSession n fun x => { x with current := none }).session n).current = none
  simp

theorem SameRecords.of_mute {y : State} (h : SameRecords n s z) (hm : y.mute = z.mute) : SameRecords n s y where
  roles m hne := by rw [← h.roles m hne, role?, role?, session_of_mute hm]
  watches m hne t := (watches_of_mute hm m t).trans (h.watches m hne t)
  capable m := by rw [session_of_mute hm, h.capable]
  records := (parts_of_mute hm).2.1.trans h.records
  targets := (parts_of_mute hm).2.2.1.trans h.targets

theorem sameRecords_afterDelivery (s : State) (n : Index) : SameRecords n s (s.afterDelivery n) where
  roles m _ := s.role?_afterDelivery n m
  watches m _ t := s.watches_afterDelivery n m t
  capable m := by
    show ((s.afterFrame n).session m).capable = _
    by_cases hm : m = n
    · subst hm
      simp [afterFrame, restartLease, modOpen]
    · rw [show (s.afterFrame n).session m = s.session m from modSession_session_of_ne _ _ hm]
  records := rfl
  targets := rfl

/-- An open session ends: it is over, the rest is kept, and its link keeps what the cause leaves. -/
theorem endSession_ends (c : EndCause) (ho : z.isOpen n = true) (hz : SameRecords n s z) :
    ∃ order, everyBlockOnce order ∧ z.endSession n c = order.foldl (takeEnd n c) (z.closedFor n) ∧
      ended n (z.endSession n c) ∧ keptByEnd n s (z.endSession n c) ∧ (z.endSession n c).link n = endLink c (z.link n) := by
  obtain ⟨order, horder, heq⟩ := z.endSession_eq n c ho
  refine ⟨order, horder, heq, ?_⟩
  rw [heq]
  exact ended_of_everyBlock c horder hz.closedFor (z.closedFor_current n)

end

/-! ### CLOSE (R119) -/

section

variable {s : State} {l : Index} {tag : Byte}

theorem close_taken (h : s.requestOpen l tag = true) : exec (.close l tag) s = .next ((s.afterDelivery l).takeClose l tag) :=
  congrArg Host.Outcome.next (s.requestArrives_untargeted l tag .close h (show (0x02 : Byte) ∉ Request.deferredKinds by decide) rfl fun _ => rfl)

/-- CLOSE: the response, last in the queue, and then the end. -/
theorem close_ends (h : s.requestOpen l tag = true) :
    completes (.close l tag) s fun s' =>
      let r : Response := { tag, status := .ok, kind := 0x02, payload := [byteOf (s.outstanding l)] }
      ended l s' ∧ keptByEnd l s s' ∧
      (s'.link l).respQ = relabelled
        (if Config.immediateNeeds ≤ s.freePlaces l then (s.link l).respQ ++ [{ owner := .session, resp := r }] else (s.link l).respQ) ∧
      ∃ u : State, ∃ order : List EndBlock, everyBlockOnce order ∧ s' = order.foldl (takeEnd l .close) u ∧
        u.mute = ((s.afterDelivery l).closedFor l).mute ∧ s.othersSilent u l ∧ s.replied u l r [] := by
  have hvoice := s.afterDelivery_sameVoice l
  have ho := isOpen_of_requestOpen s l tag h
  have hcount : (s.afterDelivery l).outstanding l = s.outstanding l := congrArg List.length (s.tags_afterFrame l)
  set r : Response := { tag, status := .ok, kind := 0x02, payload := [byteOf (s.outstanding l)] } with hr
  have htake : (s.afterDelivery l).takeClose l tag = ((s.afterDelivery l).respondNow l r).endSession l .close := by
    unfold takeClose
    rw [hcount]
  obtain ⟨hmute, hsilent, hreplied⟩ := respondNow_of_sameVoice r hvoice ho
  have hopen : ((s.afterDelivery l).respondNow l r).isOpen l = true := (isOpen_of_mute hmute l).trans (hvoice.isOpen.trans ho)
  obtain ⟨-, -, hrespQ, -⟩ := respondNow_queues_from (s := s) r (hvoice.isOpen.trans ho) hvoice.respQ
    fun n hn => ⟨hvoice.links n hn, rfl⟩
  obtain ⟨order, horder, heq, hended, hkept, hlink⟩ := endSession_ends .close hopen ((s.sameRecords_afterDelivery l).of_mute hmute)
  refine ⟨_, (close_taken h).trans (congrArg Host.Outcome.next htake), hended, hkept, ?_,
    ((s.afterDelivery l).respondNow l r).closedFor l, order, horder, heq, ?_, hsilent, hreplied⟩
  · have hq : (((s.afterDelivery l).respondNow l r).link l).respQ =
        if Config.immediateNeeds ≤ s.freePlaces l then (s.link l).respQ ++ [{ owner := .session, resp := r }] else (s.link l).respQ := by
      rw [hrespQ]
      split
      · rfl
      · exact List.append_nil _
    rw [hlink, ← hq]
    rfl
  · exact congrArg (closedFor l) hmute

end

/-! ### The blocks, as the statement has them -/

section

variable (s : State) (n t : Index)

/-- A Run Control Unit takes the end of Sn. -/
theorem endInRunControl_mute (f : RunControl → RunControl) (hf : f (s.rc t) = endRc n (s.acc t) (s.rc t)) :
    (s.endInRunControl n t).mute =
      (if endReleases n (s.acc t) (s.rc t) then (s.modRc t f).handRc t .run else s.modRc t f).mute := by
  rw [(s.endInRunControl_ran n t).mute, modRc_eq_ran, hf, handRc_ran]
  split <;> rfl

/-- The watch demand of a bank, as a comparator bound. -/
theorem endInBreakTable_bound : (∃ d, (((s.endInBreakTable n).bank t).get d).subs ≠ []) ↔ (s.endDropped n).demand t = true := by
  have hports := foldl_modPort (s.endPort n) indices (by decide) (s.endDropped n)
  rw [← endInBreakTable_eq] at hports
  rw [(s.endDropped n).demand_iff, (hports.2.2.2.2.2.2 t).2.1]

theorem endInBreakTable_port : (s.endInBreakTable n).port t =
    if (∃ d, ((s.bank t).get d).subs ≠ []) ∧ ¬ (∃ d, (((s.endInBreakTable n).bank t).get d).subs ≠ []) ∧
        (s.rc t).run ≠ .detached ∧ (s.rc t).run ≠ .resetting then
      { s.port t with sendList := (s.port t).sendList ++ [.watch false], watchEnable := false }
    else s.port t := by
  have hports := foldl_modPort (s.endPort n) indices (by decide) (s.endDropped n)
  rw [← endInBreakTable_eq] at hports
  have hport : (s.endInBreakTable n).port t = s.endPort n t (s.port t) := by
    rw [(hports.2.2.2.2.2.2 t).2.2.2.2, if_pos (mem_indices t)]
    exact congrArg (s.endPort n t) (port_dropRecords s t _)
  have hold := s.demand_iff t
  have hnew := s.endInBreakTable_bound n t
  rw [hport]
  unfold endPort
  by_cases hsends : s.demand t = true ∧ ¬ (s.endDropped n).demand t = true ∧ (s.rc t).run ≠ .detached ∧ (s.rc t).run ≠ .resetting
  · obtain ⟨hwas, hnone, hrun⟩ := hsends
    have hoff : (s.endDropped n).demand t = false := by simpa using hnone
    have hsent : ¬ (s.demand t = (s.endDropped n).demand t ∨ (s.rc t).run = .detached ∨ (s.rc t).run = .resetting) := by
      rw [hwas, hoff]
      simp [hrun]
    rw [if_neg hsent, if_pos ⟨hold.1 hwas, mt hnew.1 hnone, hrun⟩, hoff]
  · have hkept : s.demand t = (s.endDropped n).demand t ∨ (s.rc t).run = .detached ∨ (s.rc t).run = .resetting := by
      by_contra hne
      obtain ⟨hdiffers, hrun⟩ := not_or.1 hne
      have hnone : ¬ (s.endDropped n).demand t = true := fun hnew =>
        hdiffers ((s.demand_of_endDropped n t hnew).trans hnew.symm)
      have hwas : s.demand t = true := by
        cases hw : s.demand t with
        | true => rfl
        | false => exact absurd (hw.trans (Bool.eq_false_of_not_eq_true hnone).symm) hdiffers
      exact hsends ⟨hwas, hnone, not_or.1 hrun⟩
    rw [if_pos hkept, if_neg fun h => hsends ⟨hold.2 h.1, mt hnew.2 h.2.1, h.2.2⟩]

theorem endInLinkUnit_eq (c : EndCause) : s.endInLinkUnit n c = s.modLink n fun v =>
    { v with
      pendingData := none
      respQ := relabelled (if c = .lease then
        v.respQ.take (match (s.link n).tx with | .response _ => 1 | _ => 0) ++
          (v.respQ.drop (match (s.link n).tx with | .response _ => 1 | _ => 0)).filter fun e => e.owner != .session
        else v.respQ) } := by
  refine modLink_congr s n ?_
  rw [endRespQ_eq]
  rfl

end

/-- Settles O36: CLOSE, and what each block does with the end. -/
theorem closeAnswersAndEnds : Obligations.CloseAnswersAndEnds := by
  unfold Obligations.CloseAnswersAndEnds
  refine ⟨fun s l tag h => close_ends h, fun s n t c => ?_, fun s n c => ?_,
    fun s n t c => ⟨s.endInAccess_eq n t, rfl, s.endInLinkUnit_eq n c⟩⟩
  · have hran := s.endInRunControl_ran n t
    have htells := hran.tells
    rw [endStates_eq] at htells
    refine ⟨?_, hran.answered, htells⟩
    exact s.endInRunControl_mute n t _ (endRc_eq n (s.acc t) (s.rc t)).symm
  · have hports := foldl_modPort (s.endPort n) indices (by decide) (s.endDropped n)
    rw [← endInBreakTable_eq] at hports
    obtain ⟨hlinks, hsessions, hnotices, hrecords, hsched, hpending, htargets⟩ := hports
    refine ⟨hrecords, fun t d => ?_, fun t => s.endInBreakTable_port n t, fun t => ?_, hlinks, hsessions, hnotices, hsched, hpending⟩
    · show ((s.endInBreakTable n).bank t).get d = _
      rw [(htargets t).2.1]
      exact s.endDropped_bank n t d
    · obtain ⟨hrc, -, hacc, hcfg, -⟩ := htargets t
      exact ⟨hrc.trans (rc_dropRecords s t _), hacc.trans (acc_dropRecords s t _), hcfg.trans (cfg_dropRecords s t _)⟩

/-! ### The lease and the link break -/

section

variable (s : State) (l : Index)

theorem leaseRuns_eq : s.leaseRuns l = ((s.session l).current.bind fun o => o.leaseTimer).isSome := by
  unfold leaseRuns
  cases (s.session l).current <;> rfl

theorem inTransmission_eq (u : LinkUnit) : inTransmission u = u.respQ.take (match u.tx with | .response _ => 1 | _ => 0) := by
  unfold inTransmission
  cases u.tx <;> rfl

/-- The link after a break was detected. -/
def broken (l : Index) (s : State) : State := s.modLink l fun u =>
  { u with
    rx := .idle, badFrames := 0, gapTimer := none, idleTimer := none, pendingData := none
    respQ := u.respQ.take (match (s.link l).tx with | .response _ => 1 | _ => 0) }

theorem breakDetected_eq : s.breakDetected l = (s.broken l).endSession l .linkBreak := by
  refine congrArg (endSession l .linkBreak) (modLink_congr s l ?_)
  rw [inTransmission_eq]

end

/-- Settles O37: a lease expiry and a link break end an open session, each after what it does to the link. -/
theorem leaseAndBreakEndSession : Obligations.LeaseAndBreakEndSession := by
  unfold Obligations.LeaseAndBreakEndSession
  refine ⟨fun s l => ⟨fun hstopped => ?_, fun hruns => ?_⟩, fun s l => ⟨_, rfl, ?_⟩⟩
  · exact congrArg Host.Outcome.next (if_neg (by rwa [leaseRuns_eq]))
  · have hopen : s.isOpen l = true := by
      cases hc : (s.session l).current with
      | none => simp [hc] at hruns
      | some o => exact isOpen_of_current hc
    obtain ⟨order, horder, heq, hended, hkept, hlink⟩ := endSession_ends .lease hopen (SameRecords.refl l s)
    refine ⟨s.endSession l .lease, congrArg Host.Outcome.next (if_pos ((leaseRuns_eq s l).trans hruns)), hended, hkept, ?_, order, horder, heq⟩
    rw [hlink]
    rfl
  · rw [breakDetected_eq]
    have hbroken : (s.broken l).link l = { s.link l with
        rx := .idle, badFrames := 0, gapTimer := none, idleTimer := none, pendingData := none
        respQ := (s.link l).respQ.take (match (s.link l).tx with | .response _ => 1 | _ => 0) } := modLink_link_self ..
    cases hopen : s.isOpen l with
    | true =>
      obtain ⟨order, horder, heq, hended, hkept, hlink⟩ := endSession_ends (s := s) .linkBreak (z := s.broken l) hopen
        ⟨fun _ _ => rfl, fun _ _ _ => rfl, fun _ => rfl, rfl, rfl⟩
      rw [hbroken] at hlink
      beta_reduce
      rw [hlink]
      exact ⟨rfl, rfl, rfl, rfl, rfl, fun _ => ⟨hended, hkept, rfl, order, horder, heq⟩, fun h => absurd rfl h⟩
    | false =>
      have hclosed : (s.broken l).endSession l .linkBreak = s.broken l := endSession_of_closed (s.broken l) l .linkBreak hopen
      rw [hclosed]
      beta_reduce
      rw [hbroken]
      exact ⟨rfl, rfl, rfl, rfl, rfl, fun h => absurd h (by simp), fun _ => rfl⟩

end Sys2Proof.Machine.State
end
